-- ==== Sys2Proof/Word.lean ====
section
/-! DEFINITION. The word types of the block (R6 of 00_scope.md): a command word, a byte, a response data word. -/

namespace Sys2Proof

/-- A command word, `CMD_W` = 64 bits (R6, R70). -/
abbrev Word := BitVec 64

/-- A byte of the bitstream store, also the sample operand of `ENC` (R6, R26). -/
abbrev Byte := BitVec 8

/-- A response data word, `RSP_DATA_W` = 128 bits (R6, R76). -/
abbrev Data := BitVec 128

end Sys2Proof
end

