-- ==== Sys2Proof/Config.lean ====
section
/-! DEFINITION. What one implementation of the block fixes and the spec leaves open (R6, D5, D6): the two capacities. -/

namespace Sys2Proof

/-- The two open parameters of R6, each within the range R6 gives it.  A capacity is held as its distance below the
largest one R6 allows, so that every value of the type is a legal capacity and every legal capacity is one. -/
structure Params where
  /-- How many bytes the bitstream store falls short of 2^32 - 1. -/
  bsShort : Fin 4294967295
  /-- How many records the record store falls short of 2^16 - 1. -/
  recShort : Fin 65535
  deriving DecidableEq, Repr, Inhabited

/-- `BS_CAP`: the bytes the bitstream store can hold, 1 to 2^32 - 1 (R6). -/
def Params.bsCap (p : Params) : Nat := 4294967295 - p.bsShort.val

/-- `REC_CAP`: the records the record store can hold, 1 to 2^16 - 1 (R6). -/
def Params.recCap (p : Params) : Nat := 65535 - p.recShort.val

/-- The parameters with given capacities in the ranges of R6. -/
def Params.ofCaps (b r : Nat) (hb : 1 ≤ b ∧ b ≤ 4294967295) (hr : 1 ≤ r ∧ r ≤ 65535) : Params :=
  ⟨⟨4294967295 - b, by omega⟩, ⟨65535 - r, by omega⟩⟩

/-- The parameters of this block: OPEN in the spec (R6, R42), so nothing is known of them but their ranges.
DESIGN CHOICE, log 1. -/
opaque Config.params : Params

end Sys2Proof
end

