-- ==== Sys2Proof/Syntax.lean ====
section
/-! DEFINITION. The ten commands of R71 (30_encoding.md), one constructor per row of the opcode table, each operand
at the width of its field.  `adv`, `left` and `top` are two's-complement (R72): their 16 bits stand here. -/

namespace Sys2Proof

/-- A command (R71). -/
inductive Instr where
  /-- `CFG d` (R90): configure the depth and start a run. -/
  | cfg (d : BitVec 4)
  /-- `ENC s` (R101): encode one sample. -/
  | enc (x : BitVec 8)
  /-- `COMMIT` (R105): flush the pending byte. -/
  | commit
  /-- `SEEK off` (R116): construct the decoder at a byte address. -/
  | seek (off : BitVec 32)
  /-- `DEC` (R118): decode one sample. -/
  | dec
  /-- `GBEGIN w, h` (R131): open a glyph. -/
  | gbegin (w h : BitVec 16)
  /-- `GEND adv, left, top` (R134): end the open glyph and append its record. -/
  | gend (adv left top : BitVec 16)
  /-- `RDREC idx` (R141): read one record. -/
  | rdrec (idx : BitVec 16)
  /-- `RDBS addr` (R150): read one byte of the bitstream. -/
  | rdbs (addr : BitVec 32)
  /-- `RDSTAT` (R93): read the status word. -/
  | rdstat
  deriving DecidableEq, Repr

end Sys2Proof
end

