-- ==== Sys2Proof/Machine/State.lean ====
section
/-! DEFINITION. The state of the block: every register and both stores of 10_state.md (R22 to R36, R44), and the
block's interface to its host (R3, R76, R223). -/

namespace Sys2Proof.Machine

/-- A sample depth: the closed set of R5 and R92. -/
inductive Depth where
  | one
  | two
  | four
  | eight
  deriving DecidableEq, Repr

/-- What the register `DEPTH` holds: 0, "not configured", or a depth (R22, R92). -/
inductive DepthReg where
  | notConfigured
  | configured (d : Depth)
  deriving DecidableEq, Repr

/-- The ten response status codes, in the order of their numbers 0 to 9 (R180).  The register `FAULT` holds `ok` for
its value 0, no fault (R36). -/
inductive Status where
  | ok
  | illegal
  | config
  | noCfg
  | seq
  | count
  | range
  | cap
  | bounds
  | locked
  deriving DecidableEq, Repr

/-- A glyph record, the six fields of R35 in order; the last three hold two's-complement numbers. -/
structure Record where
  offset : BitVec 32
  width : BitVec 16
  height : BitVec 16
  xAdvance : BitVec 16
  xOffset : BitVec 16
  yOffset : BitVec 16
  deriving DecidableEq, Repr

/-- The response to a command (R76). -/
structure Response where
  status : Status
  data : BitVec 128
  deriving DecidableEq, Repr

/-- What the host may do next (R223): present a command word, or assert reset.  A reset may find a command word in
flight, which is lost without a response (R210). -/
inductive HostAction where
  | command (w : BitVec 64)
  | reset (inFlight : Option (BitVec 64))
  deriving DecidableEq, Repr

/-- The block's state.  The fields `input` and `output` are the model's own, the interface to the host (log 2, log 3). -/
structure State where
  /-- `DEPTH`, the sample depth or "not configured" (R22). -/
  depth : DepthReg
  /-- `ACC`, the byte being filled (R23). -/
  acc : BitVec 8
  /-- `CUR`, the bit position in `ACC` of the next sample (R24). -/
  cur : BitVec 4
  /-- `LEN`, the number of bytes appended in this run (R25). -/
  len : BitVec 32
  /-- `BS`, the cells of the bitstream store that have a value, by rising address (R26; log 5). -/
  bs : List Host.Cell
  /-- `UVALID`, a `SEEK` has succeeded in this run (R27). -/
  uvalid : Bool
  /-- `UPTR`, the address of the byte with the next sample to decode (R28). -/
  uptr : BitVec 32
  /-- `UCUR`, the bit position of that sample in its byte (R29). -/
  ucur : BitVec 4
  /-- `GOPEN`, a glyph is open (R30). -/
  gopen : Bool
  /-- `G_OFF`, the open glyph's offset (R31). -/
  gOff : BitVec 32
  /-- `G_W`, the open glyph's width (R32). -/
  gW : BitVec 16
  /-- `G_H`, the open glyph's height (R32). -/
  gH : BitVec 16
  /-- `G_CNT`, the samples accepted for the open glyph (R33). -/
  gCnt : BitVec 32
  /-- `NREC`, the number of records appended in this run (R34). -/
  nrec : BitVec 16
  /-- `REC`, the cells of the record store that have a value, by rising index (R35; log 5). -/
  recs : List (Nat × Record)
  /-- `FAULT`, the first fault since the last successful `CFG` or reset (R36). -/
  fault : Status
  /-- What the host will still do, oldest first (R3, R223; the model's own, log 3). -/
  input : List HostAction
  /-- The responses returned so far, oldest first (R76; the model's own, log 2). -/
  output : List Response
  deriving DecidableEq, Repr

/-- Where the MODEL stops (never the block: a fault of the block is a next state, `Sys2Proof.Machine.raise`). -/
inductive Fault where
  /-- `DEC` or `RDBS` reads a cell of `BS` below `LEN` that has no value.  SAFE: `State.Inv` rules it out, so no run
  from reset reaches it (log 5). -/
  | bsCellHasNoValue (addr : Nat)
  /-- `RDREC` reads a cell of `REC` below `NREC` that has no value.  SAFE, as above (log 5). -/
  | recCellHasNoValue (idx : Nat)
  deriving DecidableEq, Repr

/-- Why an instruction has no meaning in the model. -/
inductive Refusal where
  /-- The model gives the instruction no meaning yet.  SAFE.  No arm of `exec` answers it. -/
  | notModelled (mnemonic : String)
  deriving DecidableEq, Repr

/-- The block right after reset (R43, R44, R210): every register 0, no cell of a store with a value; the host has
planned no action and no response has been returned (log 2, log 3). -/
def State.reset : State where
  depth := .notConfigured
  acc := 0#8
  cur := 0#4
  len := 0#32
  bs := []
  uvalid := false
  uptr := 0#32
  ucur := 0#4
  gopen := false
  gOff := 0#32
  gW := 0#16
  gH := 0#16
  gCnt := 0#32
  nrec := 0#16
  recs := []
  fault := .ok
  input := []
  output := []

end Sys2Proof.Machine
end

