-- ==== Sys2Proof/Machine/Operands.lean ====
section
/-! DEFINITION. Values the commands compute with: depths and masks (R22, R100), samples in the lanes of a byte (R54),
the metrics of a record (R136, R137) and the layouts of response data (R35, R76). -/

namespace Sys2Proof.Machine

/-- The depth in bits (R22). -/
def Depth.bits : Depth → Nat
  | .one => 1
  | .two => 2
  | .four => 4
  | .eight => 8

/-- The depth a `CFG` operand names: the field holds 1, 2, 4 or 8, and no other value names one (R72, R91). -/
def Depth.ofField (d : BitVec 4) : Option Depth :=
  if d = 1#4 then some .one
  else if d = 2#4 then some .two
  else if d = 4#4 then some .four
  else if d = 8#4 then some .eight
  else none

/-- The four bits of the register `DEPTH` (R22). -/
def DepthReg.field : DepthReg → BitVec 4
  | .notConfigured => 0#4
  | .configured d => BitVec.ofNat 4 d.bits

/-- `DEPTH` as a number: 0 when not configured (R22). -/
def DepthReg.bits : DepthReg → Nat
  | .notConfigured => 0
  | .configured d => d.bits

/-- `mask(DEPTH) = 2^DEPTH - 1` (R100). -/
def Depth.mask (d : Depth) : BitVec 8 := BitVec.ofNat 8 (2 ^ d.bits - 1)

/-- A sample cut to its low `DEPTH` bits (R100, R102(a)). -/
def maskSample (d : Depth) (x : BitVec 8) : BitVec 8 := x &&& d.mask

/-- A masked sample moved to a bit position of a byte (R54, R101). -/
def placeSample (d : Depth) (x : BitVec 8) (cursor : Nat) : BitVec 8 := maskSample d x <<< cursor

/-- The sample at a bit position of a byte (R54, R118). -/
def sampleAt (d : Depth) (b : BitVec 8) (cursor : Nat) : BitVec 8 := (b >>> cursor) &&& d.mask

/-- The number of the status code, 0 to 9 (R180). -/
def Status.code : Status → BitVec 4
  | .ok => 0#4
  | .illegal => 1#4
  | .config => 2#4
  | .noCfg => 3#4
  | .seq => 4#4
  | .count => 5#4
  | .range => 6#4
  | .cap => 7#4
  | .bounds => 8#4
  | .locked => 9#4

/-- `1 - sext_16(top)`, on integers (R136). -/
def yOffsetOf (top : BitVec 16) : Int := 1 - top.toInt

/-- A record as 112 bits, `offset` lowest (R35). -/
def Record.pack (r : Record) : BitVec 112 :=
  r.yOffset ++ r.xOffset ++ r.xAdvance ++ r.height ++ r.width ++ r.offset

/-- `zext_128` (R8, R76). -/
def zext128 {n : Nat} (v : BitVec n) : BitVec 128 := v.setWidth 128

end Sys2Proof.Machine
end

