-- ==== Sys2Proof/Machine/Flags.lean ====
section
/-! DEFINITION. The status bits of R37 and the status word of `RDSTAT` (R93).  The block has no arithmetic flags. -/

namespace Sys2Proof.Machine

/-- "Byte pending": `CUR != 0` (R37). -/
abbrev State.bytePending (s : State) : Prop := s.cur ≠ 0#4

/-- The block is locked: `FAULT != 0` (R36, R37, R182). -/
abbrev State.isLocked (s : State) : Prop := s.fault ≠ .ok

/-- The open glyph's sample total, `G_W * G_H` on integers (R133). -/
abbrev State.glyphSize (s : State) : Nat := s.gW.toNat * s.gH.toNat

/-- The open glyph already has all its samples (R101, R102(e)). -/
abbrev State.glyphFull (s : State) : Prop := s.gopen = true ∧ s.gCnt.toNat = s.glyphSize

/-- The bitstream store is full: `LEN = BS_CAP` (R52). -/
abbrev State.bsFull (p : Params) (s : State) : Prop := s.len.toNat = p.bsCap

/-- The record store is full: `NREC = REC_CAP` (R52). -/
abbrev State.recFull (p : Params) (s : State) : Prop := s.nrec.toNat = p.recCap

/-- The status word of `RDSTAT`, bits 127:0 from left to right (R93). -/
def State.statusWord (s : State) : BitVec 128 :=
  0#20 ++ s.acc ++ s.ucur ++ s.uptr ++ 0#2 ++ BitVec.ofBool s.uvalid ++ BitVec.ofBool s.gopen ++ s.cur
    ++ s.depth.field ++ s.fault.code ++ s.nrec ++ s.len

end Sys2Proof.Machine
end

