-- ==== Sys2Proof/Machine/Ops.lean ====
section
/-! DEFINITION. The named operations of R9: reading and writing the stores, appending, flushing, responding, raising a
fault and leaving the lock. -/

namespace Sys2Proof.Machine

/-! ### The stores: lists of (address, value) by rising address -/

/-- What an unlisted cell reads as: it has no value (R26, R35, R51, U7). -/
def Memory.unlisted {α : Type} : Option α := none

/-- The value of a cell. -/
def Memory.read {α : Type} : List (Nat × α) → Nat → Option α
  | [], _ => Memory.unlisted
  | (k, v) :: m, a => if k = a then some v else Memory.read m a

/-- A store with one cell written, in canonical form. -/
def Memory.write {α : Type} : List (Nat × α) → Nat → α → List (Nat × α)
  | [], a, v => [(a, v)]
  | (k, u) :: m, a, v =>
    if a < k then (a, v) :: (k, u) :: m
    else if a = k then (a, v) :: m
    else (k, u) :: Memory.write m a v

/-- The canonical form: addresses strictly rising, so no address twice.  An unlisted cell has no value, so no entry
equals what an unlisted address reads as. -/
abbrev Memory.wf {α : Type} (m : List (Nat × α)) : Prop := m.Pairwise (fun x y => x.1 < y.1)

/-! ### Responses and faults -/

/-- The block returns one response (R76). -/
def State.answer (st : Status) (data : BitVec 128) (s : State) : State :=
  { s with output := s.output ++ [⟨st, data⟩] }

/-- `FAULT` takes the code if it holds no fault yet; the first fault is kept (R181). -/
def State.recordFault (c : Status) (s : State) : State :=
  { s with fault := if s.isLocked then s.fault else c }

/-- `respond(data)`: the command ends with status `OK` (R9). -/
def respond (data : BitVec 128) (s : State) : Host.Outcome State Fault Refusal :=
  .next (s.answer .ok data)

/-- `raise F_X`: TAKING A FAULT.  The response carries the code and data 0 (R76), `FAULT` records it if it is the
first (R181), and nothing else changes: no state is saved elsewhere and control goes nowhere (R182). -/
def raise (c : Status) (s : State) : Host.Outcome State Fault Refusal :=
  .next ((s.recordFault c).answer c 0#128)

/-- LEAVING THE LOCK: what a successful `CFG` does to the state (R90, R183, R213).  It is the reset state with the new
depth; the host's side of the interface stands. -/
def State.startRun (d : Depth) (s : State) : State :=
  { State.reset with depth := .configured d, input := s.input, output := s.output }

/-- The host's reset (R210): every register at its reset value; the host's further actions and the responses it
already has stand. -/
def State.hostReset (s : State) : State :=
  { State.reset with input := s.input, output := s.output }

/-- Steps 2 and 3 of R186, common to every command but `CFG` and `RDSTAT`: a locked block raises `F_LOCKED` (R182), an
unconfigured one `F_NOCFG` (R185); otherwise the command goes on with its depth. -/
def whenReady (s : State) (body : Depth → Host.Outcome State Fault Refusal) : Host.Outcome State Fault Refusal :=
  if s.isLocked then raise .locked s
  else match s.depth with
    | .notConfigured => raise .noCfg s
    | .configured d => body d

/-! ### The packer -/

/-- `BsAppend(v)`: write the byte at `LEN`, then `LEN + 1` (R52). -/
def State.appendByte (v : BitVec 8) (s : State) : State :=
  { s with bs := Memory.write s.bs s.len.toNat v, len := s.len + 1#32 }

/-- `ACC <- 0; CUR <- 0` (R101, R104). -/
def State.emptyAcc (s : State) : State := { s with acc := 0#8, cur := 0#4 }

/-- `Flush()` (R104). -/
def State.flush (s : State) : State :=
  if s.bytePending then (s.appendByte s.acc).emptyAcc else s

/-- A sample counted in the open glyph, if one is open (R101, R133). -/
def State.countSample (s : State) : State :=
  { s with gCnt := if s.gopen then s.gCnt + 1#32 else s.gCnt }

/-- The body of `ENC` after its checks (R101): OR the masked sample into `ACC` at `CUR`, advance `CUR` by `DEPTH`,
count, and append the byte when the cursor reaches 8. -/
def State.packSample (d : Depth) (x : BitVec 8) (s : State) : State :=
  if 8 ≤ s.cur.toNat + d.bits then
    (s.countSample.appendByte (s.acc ||| placeSample d x s.cur.toNat)).emptyAcc
  else
    { s.countSample with
      acc := s.acc ||| placeSample d x s.cur.toNat
      cur := s.cur + BitVec.ofNat 4 d.bits }

/-! ### The unpacker -/

/-- The decoder constructed at a byte offset (R116). -/
def State.seekTo (off : BitVec 32) (s : State) : State := { s with uptr := off, ucur := 0#4, uvalid := true }

/-- The decoder's cursor moved past one sample (R118). -/
def State.nextLane (d : Depth) (s : State) : State :=
  if 8 ≤ s.ucur.toNat + d.bits then { s with uptr := s.uptr + 1#32, ucur := 0#4 }
  else { s with ucur := s.ucur + BitVec.ofNat 4 d.bits }

/-! ### The glyph record formatter -/

/-- A glyph opened: its offset is the bitstream's length now (R131). -/
def State.openGlyph (w h : BitVec 16) (s : State) : State :=
  { s with gOff := s.len, gW := w, gH := h, gCnt := 0#32, gopen := true }

/-- The record of the open glyph (R134, R135). -/
def State.glyphRecord (adv left top : BitVec 16) (s : State) : Record where
  offset := s.gOff
  width := s.gW
  height := s.gH
  xAdvance := adv
  xOffset := left
  yOffset := BitVec.ofInt 16 (yOffsetOf top)

/-- A record written at `NREC`, then `NREC + 1`, and the glyph closed (R52, R134). -/
def State.appendRecord (r : Record) (s : State) : State :=
  { s with recs := Memory.write s.recs s.nrec.toNat r, nrec := s.nrec + 1#16, gopen := false }

end Sys2Proof.Machine
end

