-- ==== Sys2Proof/Machine/Control.lean ====
section
/-! DEFINITION. The system commands `CFG` and `RDSTAT` (40_config.md). -/

namespace Sys2Proof.Machine

/-- `CFG d` (R90, R91): it executes locked or not, configured or not. -/
def execCfg (d : BitVec 4) (s : State) : Host.Outcome State Fault Refusal :=
  match Depth.ofField d with
  | none => raise .config s
  | some depth => respond 0#128 (s.startRun depth)

/-- `RDSTAT` (R93): it executes in every state and changes nothing. -/
def execRdstat (s : State) : Host.Outcome State Fault Refusal :=
  respond s.statusWord s

end Sys2Proof.Machine
end

