-- ==== Sys2Proof/Machine/Glyph.lean ====
section
/-! DEFINITION. The glyph record formatter's commands `GBEGIN`, `GEND` and `RDREC` (43_glyph_record.md), the first two at any
capacities (the functions named `…At`) and at this block's. -/

namespace Sys2Proof.Machine

/-- `GBEGIN w, h` at given capacities (R131, R132). -/
def gbeginAt (p : Params) (w h : BitVec 16) (s : State) : Host.Outcome State Fault Refusal :=
  whenReady s fun _ =>
    if s.gopen = true then raise .seq s
    else if s.bytePending then raise .seq s
    else if s.recFull p then raise .cap s
    else respond 0#128 (s.openGlyph w h)

/-- `GEND adv, left, top` at given capacities (R134 to R138): the response is the index of the record written. -/
def gendAt (p : Params) (adv left top : BitVec 16) (s : State) : Host.Outcome State Fault Refusal :=
  whenReady s fun _ =>
    if s.gopen = false then raise .seq s
    else if s.gCnt.toNat ≠ s.glyphSize then raise .count s
    else if 32767 < yOffsetOf top then raise .range s
    else if s.bytePending ∧ s.bsFull p then raise .cap s
    else respond (zext128 s.nrec) (s.flush.appendRecord (s.glyphRecord adv left top))

/-- `GBEGIN w, h` (R131). -/
def execGbegin (w h : BitVec 16) (s : State) : Host.Outcome State Fault Refusal := gbeginAt Config.params w h s

/-- `GEND adv, left, top` (R134). -/
def execGend (adv left top : BitVec 16) (s : State) : Host.Outcome State Fault Refusal :=
  gendAt Config.params adv left top s

/-- `RDREC idx` (R141): no state changes. -/
def execRdrec (idx : BitVec 16) (s : State) : Host.Outcome State Fault Refusal :=
  whenReady s fun _ =>
    if s.nrec.toNat ≤ idx.toNat then raise .bounds s
    else match Memory.read s.recs idx.toNat with
      | none => .fault (.recCellHasNoValue idx.toNat)
      | some r => respond (zext128 r.pack) s

end Sys2Proof.Machine
end

