-- ==== Sys2Proof/Machine/Packer.lean ====
section
/-! DEFINITION. The packer's commands `ENC` and `COMMIT` (41_packer.md), at any capacities (the functions named `…At`)
and at this block's. -/

namespace Sys2Proof.Machine

/-- `ENC s` at given capacities (R101, R102). -/
def encAt (p : Params) (x : BitVec 8) (s : State) : Host.Outcome State Fault Refusal :=
  whenReady s fun d =>
    if s.glyphFull then raise .count s
    else if s.cur.toNat + d.bits = 8 ∧ s.bsFull p then raise .cap s
    else respond 0#128 (s.packSample d x)

/-- `COMMIT` at given capacities (R105, R106). -/
def commitAt (p : Params) (s : State) : Host.Outcome State Fault Refusal :=
  whenReady s fun _ =>
    if s.gopen = true then raise .seq s
    else if s.bytePending ∧ s.bsFull p then raise .cap s
    else respond 0#128 s.flush

/-- `ENC s` (R101). -/
def execEnc (x : BitVec 8) (s : State) : Host.Outcome State Fault Refusal := encAt Config.params x s

/-- `COMMIT` (R105). -/
def execCommit (s : State) : Host.Outcome State Fault Refusal := commitAt Config.params s

end Sys2Proof.Machine
end

