-- ==== Sys2Proof/Machine/ReadBack.lean ====
section
/-! DEFINITION. The read-back command `RDBS` (44_readback.md). -/

namespace Sys2Proof.Machine

/-- `RDBS addr` (R150): no state changes, the decoder's cursor included. -/
def execRdbs (addr : BitVec 32) (s : State) : Host.Outcome State Fault Refusal :=
  whenReady s fun _ =>
    if s.len.toNat ≤ addr.toNat then raise .bounds s
    else match Memory.read s.bs addr.toNat with
      | none => .fault (.bsCellHasNoValue addr.toNat)
      | some b => respond (zext128 b) s

end Sys2Proof.Machine
end

