-- ==== Sys2Proof/Machine/Unpacker.lean ====
section
/-! DEFINITION. The unpacker's commands `SEEK` and `DEC` (42_unpacker.md). -/

namespace Sys2Proof.Machine

/-- `SEEK off` (R116): no check of its own. -/
def execSeek (off : BitVec 32) (s : State) : Host.Outcome State Fault Refusal :=
  whenReady s fun _ => respond 0#128 (s.seekTo off)

/-- `DEC` (R118, R119): the byte is read as the command executes, the cursor moves past the sample. -/
def execDec (s : State) : Host.Outcome State Fault Refusal :=
  whenReady s fun d =>
    if s.uvalid = false then raise .seq s
    else if s.len.toNat ≤ s.uptr.toNat then raise .bounds s
    else match Memory.read s.bs s.uptr.toNat with
      | none => .fault (.bsCellHasNoValue s.uptr.toNat)
      | some b => respond (zext128 (sampleAt d b s.ucur.toNat)) (s.nextLane d)

end Sys2Proof.Machine
end

