-- ==== Sys2Proof/Machine/Dispatch.lean ====
section
/-! DEFINITION. The meaning of every command (R71): one arm per constructor. -/

namespace Sys2Proof.Machine

/-- A decoded command executed on a state (R4). -/
def exec (i : Instr) (s : State) : Host.Outcome State Fault Refusal :=
  match i with
  | .cfg d => Sys2Proof.Machine.execCfg d s
  | .enc x => Sys2Proof.Machine.execEnc x s
  | .commit => Sys2Proof.Machine.execCommit s
  | .seek off => Sys2Proof.Machine.execSeek off s
  | .dec => Sys2Proof.Machine.execDec s
  | .gbegin w h => Sys2Proof.Machine.execGbegin w h s
  | .gend adv left top => Sys2Proof.Machine.execGend adv left top s
  | .rdrec idx => Sys2Proof.Machine.execRdrec idx s
  | .rdbs addr => Sys2Proof.Machine.execRdbs addr s
  | .rdstat => Sys2Proof.Machine.execRdstat s

end Sys2Proof.Machine
end

