-- ==== Sys2Proof/WellFormed.lean ====
section
/-! DEFINITION. What is well formed: a command word (R71's match and mask table, R74, R75) and a line of the
assembler, whose operands are numbers that must fit their fields (R72, R78, R221).  Every `Instr` is well formed by
its type: its operands have the widths of their fields. -/

namespace Sys2Proof

/-- One row of R71's second table: a word w selects the row when `w & mask = match`. -/
structure OpcodeRow where
  mnemonic : String
  pattern : Word
  mask : Word
  deriving DecidableEq, Repr

/-- R71's match and mask table. -/
def opcodeTable : List OpcodeRow :=
  [ ⟨"CFG",    0x0100000000000000#64, 0xFFFFFFFFFFFFFFF0#64⟩,
    ⟨"ENC",    0x1000000000000000#64, 0xFFFFFFFFFFFFFF00#64⟩,
    ⟨"COMMIT", 0x1100000000000000#64, 0xFFFFFFFFFFFFFFFF#64⟩,
    ⟨"SEEK",   0x2000000000000000#64, 0xFFFFFFFF00000000#64⟩,
    ⟨"DEC",    0x2100000000000000#64, 0xFFFFFFFFFFFFFFFF#64⟩,
    ⟨"GBEGIN", 0x3000000000000000#64, 0xFFFFFFFF00000000#64⟩,
    ⟨"GEND",   0x3100000000000000#64, 0xFFFF000000000000#64⟩,
    ⟨"RDREC",  0x4000000000000000#64, 0xFFFFFFFFFFFF0000#64⟩,
    ⟨"RDBS",   0x4100000000000000#64, 0xFFFFFFFF00000000#64⟩,
    ⟨"RDSTAT", 0x4200000000000000#64, 0xFFFFFFFFFFFFFFFF#64⟩ ]

/-- The word selects the row (R71). -/
def OpcodeRow.selects (r : OpcodeRow) (w : Word) : Bool := w &&& r.mask == r.pattern

/-- A well-formed command word: one that selects a row, so its opcode is assigned and its reserved bits are zero
(R71, R74, R75; the word "ill-formed" is R182's). -/
def wellFormedWord (w : Word) : Bool := opcodeTable.any (·.selects w)

/-- A command's row of R71. -/
def Instr.row : Instr → OpcodeRow
  | .cfg _ => ⟨"CFG",    0x0100000000000000#64, 0xFFFFFFFFFFFFFFF0#64⟩
  | .enc _ => ⟨"ENC",    0x1000000000000000#64, 0xFFFFFFFFFFFFFF00#64⟩
  | .commit => ⟨"COMMIT", 0x1100000000000000#64, 0xFFFFFFFFFFFFFFFF#64⟩
  | .seek _ => ⟨"SEEK",   0x2000000000000000#64, 0xFFFFFFFF00000000#64⟩
  | .dec => ⟨"DEC",    0x2100000000000000#64, 0xFFFFFFFFFFFFFFFF#64⟩
  | .gbegin _ _ => ⟨"GBEGIN", 0x3000000000000000#64, 0xFFFFFFFF00000000#64⟩
  | .gend _ _ _ => ⟨"GEND",   0x3100000000000000#64, 0xFFFF000000000000#64⟩
  | .rdrec _ => ⟨"RDREC",  0x4000000000000000#64, 0xFFFFFFFFFFFF0000#64⟩
  | .rdbs _ => ⟨"RDBS",   0x4100000000000000#64, 0xFFFFFFFF00000000#64⟩
  | .rdstat => ⟨"RDSTAT", 0x4200000000000000#64, 0xFFFFFFFFFFFFFFFF#64⟩

/-- A line of the assembler (R78) or a pseudo-command (R79), its operands the numbers as written. -/
inductive AsmLine where
  | cfg (d : Int)
  | enc (x : Int)
  | commit
  | seek (off : Int)
  | dec
  | gbegin (w h : Int)
  | gend (adv left top : Int)
  | rdrec (idx : Int)
  | rdbs (addr : Int)
  | rdstat
  /-- `ENCV s0, .., s(k-1)`: k times `ENC` (R79). -/
  | encv (xs : List Int)
  /-- `DECN k`: k times `DEC` (R79). -/
  | decn (k : Nat)
  /-- `GLYPH w, h, adv, left, top : s0, .., s(k-1)` (R79). -/
  | glyph (w h adv left top : Int) (xs : List Int)
  deriving DecidableEq, Repr

/-- The number fits an unsigned field of n bits (R72, R78). -/
def fitsUnsigned (n : Nat) (v : Int) : Bool := decide (0 ≤ v ∧ v < 2 ^ n)

/-- The number fits a two's-complement field of 16 bits: -32768 to 32767 (R72, R221). -/
def fitsMetric (v : Int) : Bool := decide (-32768 ≤ v ∧ v ≤ 32767)

/-- Every operand of the line fits its field: "An operand that does not fit its field is an assembly error" (R78).
A minus sign fits no unsigned field. -/
def AsmLine.wellFormed : AsmLine → Bool
  | .cfg d => fitsUnsigned 4 d
  | .enc x => fitsUnsigned 8 x
  | .commit => true
  | .seek off => fitsUnsigned 32 off
  | .dec => true
  | .gbegin w h => fitsUnsigned 16 w && fitsUnsigned 16 h
  | .gend adv left top => fitsMetric adv && fitsMetric left && fitsMetric top
  | .rdrec idx => fitsUnsigned 16 idx
  | .rdbs addr => fitsUnsigned 32 addr
  | .rdstat => true
  | .encv xs => xs.all (fitsUnsigned 8)
  | .decn _ => true
  | .glyph w h adv left top xs =>
      fitsUnsigned 16 w && fitsUnsigned 16 h && fitsMetric adv && fitsMetric left && fitsMetric top
        && xs.all (fitsUnsigned 8)

end Sys2Proof
end

