-- ==== Sys2Proof/Decode.lean ====
section
/-! DEFINITION. Decoding a command word (R70 to R75 of 30_encoding.md), encoding a command, and the little-endian
byte form of a word for a byte-wide channel (R56 of 20_memory.md). -/

namespace Sys2Proof

/-- Why a word, or a list of bytes, is no command. -/
inductive DecodeError where
  /-- The opcode is not in R71's table (R75). -/
  | reservedOpcode
  /-- A reserved payload bit is 1 (R74). -/
  | reservedBits
  /-- Fewer than the eight bytes of a command word were given (R56, R70). -/
  | tooFewBytes
  deriving DecidableEq, Repr

/-- Bits 63:56, the opcode (R70). -/
def opcodeOf (w : Word) : BitVec 8 := w.extractLsb' 56 8

/-- Bits 55:lo of the word are zero: the reserved payload bits of a row whose fields end below bit lo (R70, R74). -/
def reservedZero (w : Word) (lo : Nat) : Bool := w.extractLsb' lo (56 - lo) == 0#(56 - lo)

/-- A row's command, or `reservedBits` where a reserved payload bit is 1 (R73). -/
def checkReserved (w : Word) (lo : Nat) (i : Instr) : Except DecodeError Instr :=
  if reservedZero w lo then .ok i else .error .reservedBits

/-- R73: find the row whose opcode equals bits 63:56, then check its reserved bits, then read its fields (R71, R72). -/
def decode (w : Word) : Except DecodeError Instr :=
  if opcodeOf w = 0x01#8 then checkReserved w 4 (.cfg (w.extractLsb' 0 4))
  else if opcodeOf w = 0x10#8 then checkReserved w 8 (.enc (w.extractLsb' 0 8))
  else if opcodeOf w = 0x11#8 then checkReserved w 0 .commit
  else if opcodeOf w = 0x20#8 then checkReserved w 32 (.seek (w.extractLsb' 0 32))
  else if opcodeOf w = 0x21#8 then checkReserved w 0 .dec
  else if opcodeOf w = 0x30#8 then checkReserved w 32 (.gbegin (w.extractLsb' 0 16) (w.extractLsb' 16 16))
  else if opcodeOf w = 0x31#8 then
    checkReserved w 48 (.gend (w.extractLsb' 0 16) (w.extractLsb' 16 16) (w.extractLsb' 32 16))
  else if opcodeOf w = 0x40#8 then checkReserved w 16 (.rdrec (w.extractLsb' 0 16))
  else if opcodeOf w = 0x41#8 then checkReserved w 32 (.rdbs (w.extractLsb' 0 32))
  else if opcodeOf w = 0x42#8 then checkReserved w 0 .rdstat
  else .error .reservedOpcode

/-- The value of little-endian bytes, bits 7:0 first (R56). -/
def valueOfBytes : List Byte → Nat
  | [] => 0
  | b :: bs => b.toNat + 256 * valueOfBytes bs

/-- The n low bytes of a number, little-endian (R56). -/
def bytesOfValue : Nat → Nat → List Byte
  | 0, _ => []
  | n + 1, v => BitVec.ofNat 8 v :: bytesOfValue n (v / 256)

/-- A command word from the first eight bytes of a byte-wide channel (R56), with the bytes that follow. -/
def decodeBytes (bytes : List Byte) : Except DecodeError (Instr × List Byte) :=
  if bytes.length < 8 then .error .tooFewBytes
  else match decode (BitVec.ofNat 64 (valueOfBytes (bytes.take 8))) with
    | .ok i => .ok (i, bytes.drop 8)
    | .error e => .error e

/-- The word of a command: the opcode, zeros, and the fields from bit 0 up (R70, R71). -/
def encode : Instr → Word
  | .cfg d => 0x01#8 ++ 0#52 ++ d
  | .enc x => 0x10#8 ++ 0#48 ++ x
  | .commit => 0x11#8 ++ 0#56
  | .seek off => 0x20#8 ++ 0#24 ++ off
  | .dec => 0x21#8 ++ 0#56
  | .gbegin w h => 0x30#8 ++ 0#24 ++ h ++ w
  | .gend adv left top => 0x31#8 ++ 0#8 ++ top ++ left ++ adv
  | .rdrec idx => 0x40#8 ++ 0#40 ++ idx
  | .rdbs addr => 0x41#8 ++ 0#24 ++ addr
  | .rdstat => 0x42#8 ++ 0#56

/-- A command as it crosses a byte-wide channel (R56). -/
def encodeBytes (i : Instr) : List Byte := bytesOfValue 8 (encode i).toNat

/-- What the decoder reads from a row's word, its bits numbered as spec/opcode_table.json numbers them. -/
def decodeTableWord (nbits w : Nat) : Option Instr :=
  (decode (BitVec.ofNat 64 (w % 2 ^ nbits))).toOption

end Sys2Proof
end

