-- ==== Sys2Proof/Machine/Fetch.lean ====
section
/-! DEFINITION. How the block takes the host's next action (R3, R210, R223).  The block fetches no instructions (R21): the
host presents them. -/

namespace Sys2Proof.Machine

/-- The host's first action done, whatever it was. -/
def State.takeAction (s : State) : State := { s with input := s.input.tail }

/-- One command word served (R3, R4, R186): an illegal word raises `F_ILLEGAL`, decoding first of all; any other is
executed by `run`. -/
def serveWord (run : Instr → State → Host.Outcome State Fault Refusal) (w : BitVec 64) (s : State) :
    Host.Outcome State Fault Refusal :=
  match decode w with
  | .ok i => run i s
  | .error _ => raise .illegal s

/-- One action of the host served.  With none, the block waits and keeps all its state (R3, R191, R211).  A reset
puts every register at its reset value and returns no response; the word it finds in flight is lost (R210). -/
def serveHost (run : Instr → State → Host.Outcome State Fault Refusal) (s : State) :
    Host.Outcome State Fault Refusal :=
  match s.input with
  | [] => .next s
  | .command w :: _ => serveWord run w s.takeAction
  | .reset _ :: _ => .next s.takeAction.hostReset

/-- A command word presented as the host's next action, before those it had planned. -/
def State.present (s : State) (w : BitVec 64) : State := { s with input := .command w :: s.input }

end Sys2Proof.Machine
end

