-- ==== Sys2Proof/Machine/Step.lean ====
section
/-! DEFINITION. One step of the block: one action of its host (R3, R223). -/

namespace Sys2Proof.Machine

/-- One step: the host's next action, its command executed completely (R3). -/
def step (s : State) : Host.Outcome State Fault Refusal := serveHost exec s

/-- The state whose next step runs the word: the host presents it now (log 9). -/
def State.withFetchWord (s : State) (nbits w : Nat) : State := s.present (BitVec.ofNat 64 (w % 2 ^ nbits))

end Sys2Proof.Machine
end

