-- ==== Sys2Proof/Machine/Assembler.lean ====
section
/-! DEFINITION. The assembler of R78 and the pseudo-commands of R79 (30_encoding.md): from the text of a line to the
commands it stands for.  Where R78 leaves the text open (spaces, the case of hexadecimal digits), log 11. -/

namespace Sys2Proof.Machine

/-- `ENCV s0, .., s(k-1)` expanded (R79). -/
def encodeSamples (xs : List Int) : List Instr := xs.map fun x => .enc (BitVec.ofInt 8 x)

/-- `tc_16` (R8, R78). -/
def metricField (v : Int) : BitVec 16 := BitVec.ofInt 16 v

/-- The commands a line stands for (R78, R79); only for lines whose operands fit. -/
def expandLine : AsmLine → List Instr
  | .cfg d => [.cfg (BitVec.ofInt 4 d)]
  | .enc x => [.enc (BitVec.ofInt 8 x)]
  | .commit => [.commit]
  | .seek off => [.seek (BitVec.ofInt 32 off)]
  | .dec => [.dec]
  | .gbegin w h => [.gbegin (BitVec.ofInt 16 w) (BitVec.ofInt 16 h)]
  | .gend adv left top => [.gend (metricField adv) (metricField left) (metricField top)]
  | .rdrec idx => [.rdrec (BitVec.ofInt 16 idx)]
  | .rdbs addr => [.rdbs (BitVec.ofInt 32 addr)]
  | .rdstat => [.rdstat]
  | .encv xs => encodeSamples xs
  | .decn k => List.replicate k .dec
  | .glyph w h adv left top xs =>
      .gbegin (BitVec.ofInt 16 w) (BitVec.ofInt 16 h) :: encodeSamples xs
        ++ [.gend (metricField adv) (metricField left) (metricField top)]

/-- A line assembled: an operand that does not fit its field is an error, not a truncation (R78). -/
def assemble (l : AsmLine) : Option (List Instr) := if l.wellFormed then some (expandLine l) else none

/-! ### The text of a line -/

/-- A space or a tab. -/
def isBlank (c : Char) : Bool := c == ' ' || c == '\t'

/-- The text without the blanks around it. -/
def trimBlanks (cs : List Char) : List Char := ((cs.dropWhile isBlank).reverse.dropWhile isBlank).reverse

/-- The value of a digit in a base up to 16. -/
def digitValue (base : Nat) (c : Char) : Option Nat :=
  let v := if '0' ≤ c ∧ c ≤ '9' then c.toNat - '0'.toNat
    else if 'a' ≤ c ∧ c ≤ 'f' then c.toNat - 'a'.toNat + 10
    else if 'A' ≤ c ∧ c ≤ 'F' then c.toNat - 'A'.toNat + 10
    else base
  if v < base then some v else none

/-- One or more digits in a base. -/
def parseDigits (base : Nat) (cs : List Char) : Option Nat :=
  if cs.isEmpty then none
  else cs.foldl (fun acc c => acc.bind fun n => (digitValue base c).map fun v => base * n + v) (some 0)

/-- A number without a sign: decimal, hexadecimal with `0x`, binary with `0b` (R78). -/
def parseUnsigned : List Char → Option Nat
  | '0' :: 'x' :: cs => parseDigits 16 cs
  | '0' :: 'b' :: cs => parseDigits 2 cs
  | cs => parseDigits 10 cs

/-- A metric operand, on which a leading `-` is allowed (R78). -/
def parseMetric : List Char → Option Int
  | '-' :: cs => (parseUnsigned cs).map fun n => -(n : Int)
  | cs => (parseUnsigned cs).map fun n => (n : Int)

/-- The operands of a line, separated by commas (R78); no text, no operands. -/
def splitOperands (cs : List Char) : List (List Char) :=
  if (trimBlanks cs).isEmpty then [] else (cs.splitOn ',').map trimBlanks

/-- All operands unsigned (R78). -/
def parseOperands : List (List Char) → Option (List Int)
  | [] => some []
  | c :: cs => (parseUnsigned c).bind fun n => (parseOperands cs).map fun ns => (n : Int) :: ns

/-- The line of a mnemonic in capitals with its operands in R78's order. -/
def parseCommand (mnemonic : List Char) (text : List Char) : Option AsmLine :=
  if mnemonic = ['E', 'N', 'C', 'V'] then (parseOperands (splitOperands text)).map .encv
  else if mnemonic = ['G', 'L', 'Y', 'P', 'H'] then
    match text.splitOn ':' with
    | [head, samples] =>
      match splitOperands head with
      | [w, h, adv, left, top] => do
        let w ← parseUnsigned w
        let h ← parseUnsigned h
        let adv ← parseMetric adv
        let left ← parseMetric left
        let top ← parseMetric top
        let xs ← parseOperands (splitOperands samples)
        return .glyph w h adv left top xs
      | _ => none
    | _ => none
  else match splitOperands text with
    | [] =>
      if mnemonic = ['C', 'O', 'M', 'M', 'I', 'T'] then some .commit
      else if mnemonic = ['D', 'E', 'C'] then some .dec
      else if mnemonic = ['R', 'D', 'S', 'T', 'A', 'T'] then some .rdstat
      else none
    | [a] =>
      if mnemonic = ['C', 'F', 'G'] then (parseUnsigned a).map fun n => .cfg n
      else if mnemonic = ['E', 'N', 'C'] then (parseUnsigned a).map fun n => .enc n
      else if mnemonic = ['S', 'E', 'E', 'K'] then (parseUnsigned a).map fun n => .seek n
      else if mnemonic = ['R', 'D', 'R', 'E', 'C'] then (parseUnsigned a).map fun n => .rdrec n
      else if mnemonic = ['R', 'D', 'B', 'S'] then (parseUnsigned a).map fun n => .rdbs n
      else if mnemonic = ['D', 'E', 'C', 'N'] then (parseUnsigned a).map .decn
      else none
    | [a, b] =>
      if mnemonic = ['G', 'B', 'E', 'G', 'I', 'N'] then
        (parseUnsigned a).bind fun w => (parseUnsigned b).map fun h => .gbegin w h
      else none
    | [a, b, c] =>
      if mnemonic = ['G', 'E', 'N', 'D'] then
        (parseMetric a).bind fun x => (parseMetric b).bind fun y => (parseMetric c).map fun z => .gend x y z
      else none
    | _ => none

/-- A line of text: `;` starts a comment (R78); a line with nothing else stands for no command. -/
def assembleText (line : List Char) : Option (List Instr) :=
  let body := trimBlanks (line.takeWhile (· != ';'))
  if body.isEmpty then some []
  else (parseCommand (body.takeWhile fun c => !isBlank c) (body.dropWhile fun c => !isBlank c)).bind assemble

end Sys2Proof.Machine
end

