-- ==== Sys2Proof/Machine/HostSide.lean ====
section
/-! DEFINITION. The software around the block, as pure functions (45_boundary_functions.md, R122): it is no part of
the block's state or step (R7, R160), and feeds it commands and reads its result.  Log 10. -/

namespace Sys2Proof.Machine

/-! ### The quantiser and the expander -/

/-- `quant(d, p) = p >> (8 - d)`, for depths 2, 4 and 8 (R161). -/
def quant (d : Depth) (p : BitVec 8) : BitVec 8 := p >>> (8 - d.bits)

/-- A rasteriser's bitmap: `pitch` bytes from row to row (R163).  A negative pitch cannot be written down (U19). -/
structure Bitmap where
  width : Nat
  height : Nat
  pitch : Nat
  buffer : List (BitVec 8)
  deriving DecidableEq, Repr

/-- `quant1`: pixel x of row y of a one-bit bitmap, most significant bit leftmost (R162; PRESUMED by the spec, G1). -/
def Bitmap.quant1 (m : Bitmap) (x y : Nat) : Option (BitVec 8) :=
  m.buffer[y * m.pitch + x / 8]?.map fun b => if b &&& (0x80#8 >>> (x % 8)) ≠ 0#8 then 1#8 else 0#8

/-- The sample of pixel (x, y) at a depth (R161, R162, R164); none outside the buffer. -/
def Bitmap.sample (d : Depth) (m : Bitmap) (x y : Nat) : Option (BitVec 8) :=
  if d = .one then m.quant1 x y else m.buffer[y * m.pitch + x]?.map (quant d)

/-- The bitmap's pixels in scan order: row-major, left to right, top to bottom (R57, R164). -/
def Bitmap.scan (m : Bitmap) : List (Nat × Nat) :=
  (List.range m.height).flatMap fun y => (List.range m.width).map fun x => (x, y)

/-- A glyph's samples in scan order; the rows' padding is never read (R163). -/
def Bitmap.samples (d : Depth) (m : Bitmap) : Option (List (BitVec 8)) :=
  m.scan.mapM fun q => m.sample d q.1 q.2

/-- `scale(d) = 255 div (2^d - 1)` (R166). -/
def expandScale (d : Depth) : Nat := 255 / (2 ^ d.bits - 1)

/-- `expand(d, v) = v * scale(d)` (R166). -/
def expandSample (d : Depth) (v : Nat) : Nat := v * expandScale d

/-! ### Issuing glyphs, and the font asset -/

/-- What the rasteriser reports with a bitmap, in whole pixels (R134, R135). -/
structure Metrics where
  advance : Int
  leftBearing : Int
  topBearing : Int
  deriving DecidableEq, Repr

/-- One glyph as the host issues it (R164); none if a value does not fit its field, for the host must not truncate it
(R221), or the buffer is too short. -/
def glyphCommands (d : Depth) (m : Bitmap) (q : Metrics) : Option (List Instr) :=
  (m.samples d).bind fun xs =>
    assemble (.glyph m.width m.height q.advance q.leftBearing q.topBearing (xs.map fun x => (x.toNat : Int)))

/-- The glyphs of a run in code-point order; a code point the rasteriser failed on gets no command (R143, R173). -/
def glyphsCommands (d : Depth) : List (Option (Bitmap × Metrics)) → Option (List Instr)
  | [] => some []
  | none :: gs => glyphsCommands d gs
  | some (m, q) :: gs =>
    (glyphCommands d m q).bind fun is => (glyphsCommands d gs).map fun more => is ++ more

/-- A run: `CFG`, then its glyphs (R212). -/
def runCommands (d : Depth) (glyphs : List (Option (Bitmap × Metrics))) : Option (List Instr) :=
  (glyphsCommands d glyphs).map fun is => .cfg (BitVec.ofNat 4 d.bits) :: is

/-- How the renderer uses the unpacker for one record (R122). -/
def decodeGlyphCommands (idx : BitVec 16) (r : Record) : List Instr :=
  .rdrec idx :: .seek r.offset :: List.replicate (r.width.toNat * r.height.toNat) .dec

/-- The part of a font asset that the host holds and the block never sees: the inclusive code-point range and the line
height (R172). -/
structure HostPart where
  first : Nat
  last : Nat
  yAdvance : Int
  deriving DecidableEq, Repr

/-- The font asset (R10, R151): the block holds its first three parts, the host the others (R172). -/
structure FontAsset where
  depth : Depth
  bitstream : List (BitVec 8)
  records : List Record
  first : Nat
  last : Nat
  yAdvance : Int
  deriving DecidableEq, Repr

/-! ### The atlas renderer -/

/-- The canvas's width: the sum of all `xAdvance` (R168). -/
def FontAsset.canvasWidth (a : FontAsset) : Int := (a.records.map fun r => r.xAdvance.toInt).sum

/-- The canvas's height: `yAdvance` (R168). -/
def FontAsset.canvasHeight (a : FontAsset) : Int := a.yAdvance

/-- `y0 = -min(0, min over glyphs of yOffset)` (R169). -/
def FontAsset.yOrigin (a : FontAsset) : Int := -(a.records.foldl (fun m r => min m r.yOffset.toInt) 0)

/-- Sample k of a record, decoded from the asset (R117(d), R122). -/
def FontAsset.sample (a : FontAsset) (r : Record) (k : Nat) : Option (BitVec 8) :=
  a.bitstream[r.offset.toNat + k * a.depth.bits / 8]?.map fun b => sampleAt a.depth b (k * a.depth.bits % 8)

/-- One write to the canvas: position and intensity. -/
structure PixelWrite where
  x : Int
  y : Int
  value : Nat
  deriving DecidableEq, Repr

/-- The writes of one glyph at a horizontal origin, in scan order (R166, R170). -/
def FontAsset.glyphWrites (a : FontAsset) (destX : Int) (r : Record) : Option (List PixelWrite) :=
  (List.range (r.width.toNat * r.height.toNat)).mapM fun k =>
    (a.sample r k).map fun v =>
      ⟨destX + ((k % r.width.toNat : Nat) : Int) + r.xOffset.toInt,
       a.yOrigin + ((k / r.width.toNat : Nat) : Int) + r.yOffset.toInt,
       expandSample a.depth v.toNat⟩

/-- The writes of the records from a horizontal origin on, in record order (R170). -/
def FontAsset.writesFrom (a : FontAsset) : Int → List Record → Option (List PixelWrite)
  | _, [] => some []
  | x, r :: rs =>
    (a.glyphWrites x r).bind fun ws => (a.writesFrom (x + r.xAdvance.toInt) rs).map fun more => ws ++ more

/-- The write is inside the canvas (R168, R171). -/
def FontAsset.inCanvas (a : FontAsset) (q : PixelWrite) : Bool :=
  decide (0 ≤ q.x ∧ q.x < a.canvasWidth ∧ 0 ≤ q.y ∧ q.y < a.canvasHeight)

/-- The preview image as its writes in order; none where a sample is missing or a write falls outside the canvas,
which is a fault and never clipped (R171). -/
def FontAsset.render (a : FontAsset) : Option (List PixelWrite) :=
  (a.writesFrom 0 a.records).bind fun ws => if ws.all a.inCanvas then some ws else none

/-- A pixel of the rendered canvas: the last write to it; a pixel no glyph writes has no value (R170, U17, U18). -/
def pixelOf (ws : List PixelWrite) (x y : Int) : Option Nat :=
  (ws.reverse.find? fun q => q.x == x && q.y == y).map fun q => q.value

end Sys2Proof.Machine
end

