-- ==== Sys2Proof/Machine/Conversion.lean ====
section
/-! DEFINITION. The conversion loop around the block: its inputs, its glyphs and its failures (R172, R173 of
45_boundary_functions.md, R139, R143 of 43_glyph_record.md).  None of the inputs but the depth reaches the block (R172). -/

namespace Sys2Proof.Machine

/-- The inputs of a run (R172).  A run that lacks the font size or the depth cannot be written down: missing inputs are
rejected by the host (R173). -/
structure RunInputs where
  /-- The font size in pixels. -/
  fontSize : Nat
  /-- The bit depth as asked for, legal or not. -/
  depth : Nat
  /-- The first code point, by default the first printable ASCII one. -/
  first : Nat := 0x20
  /-- The last code point, itself in the range, by default the last printable ASCII one. -/
  last : Nat := 0x7E
  deriving DecidableEq, Repr

/-- The rasteriser at its boundary, for one font (R174): from a font size, the run's depth (at depth 1 the bitmap is the
native monochrome one, R162) and a code point, a glyph or a failure; and the line height it reports for a font size. -/
structure Rasteriser where
  glyph : Nat → Depth → Nat → Option (Bitmap × Metrics)
  lineHeight : Nat → Int

/-- Why the host issues no commands for a run. -/
inductive ConversionFailure where
  /-- An unsupported depth, rejected before any rasteriser interaction (R172, R173(c), R212). -/
  | unsupportedDepth
  /-- The rasteriser cannot start, or the font cannot be read: the conversion aborts (R173(a)). -/
  | noRasteriser
  /-- A glyph's dimension or metric does not fit its field, and the host must not truncate it (R221); or its bitmap's
  buffer is too short (log 10). -/
  | glyphNotExpressible
  deriving DecidableEq, Repr

/-- The depth a number names, if it is 1, 2, 4 or 8 (R5, R172). -/
def Depth.ofNumber (n : Nat) : Option Depth := if n < 16 then Depth.ofField (BitVec.ofNat 4 n) else none

/-- The code points of the inclusive range, ascending (R172, R212). -/
def RunInputs.codePoints (n : RunInputs) : List Nat := List.range' n.first (n.last + 1 - n.first)

/-- The rasteriser's answer for each code point of the range (R173, R174). -/
def RunInputs.glyphs (n : RunInputs) (e : Rasteriser) (d : Depth) : List (Option (Bitmap × Metrics)) :=
  n.codePoints.map (e.glyph n.fontSize d)

/-- The code points that get a record, in the order of their records: the host's map from record to code point in a
run with skips (R139, R143). -/
def RunInputs.recorded (n : RunInputs) (e : Rasteriser) (d : Depth) : List Nat :=
  n.codePoints.filter fun c => (e.glyph n.fontSize d c).isSome

/-- The commands of a run (R172, R173, R212): `CFG`, then the glyphs of the range. -/
def RunInputs.conversion (n : RunInputs) (engine : Option Rasteriser) : Except ConversionFailure (List Instr) :=
  match Depth.ofNumber n.depth with
  | none => .error .unsupportedDepth
  | some d =>
    match engine with
    | none => .error .noRasteriser
    | some e =>
      match runCommands d (n.glyphs e d) with
      | none => .error .glyphNotExpressible
      | some is => .ok is

/-- The host's part of the asset: the range, and after the loop the rasteriser's line height (R172). -/
def RunInputs.hostPart (n : RunInputs) (e : Rasteriser) : HostPart := ⟨n.first, n.last, e.lineHeight n.fontSize⟩

end Sys2Proof.Machine
end

