-- ==== Sys2Proof/Machine/ReadOut.lean ====
section
/-! DEFINITION. Reading a run's result out of the block (R151 of 44_readback.md, R222 of 70_reset_and_hazards.md): what
the host takes from the responses to `RDSTAT`, `RDBS` and `RDREC`, and the asset that the block's state then holds. -/

namespace Sys2Proof.Machine

/-- A run's result is complete and may be read out (R222). -/
abbrev State.runComplete (s : State) : Prop :=
  s.fault = .ok ∧ s.depth ≠ .notConfigured ∧ s.gopen = false ∧ s.cur = 0#4

/-- The font asset of the block's state with the host's part (R151, R222): none unless the run's result is complete. -/
def State.asset (m : HostPart) (s : State) : Option FontAsset :=
  if s.runComplete then
    match s.depth with
    | .notConfigured => none
    | .configured d => some ⟨d, s.bs.map Prod.snd, s.recs.map Prod.snd, m.first, m.last, m.yAdvance⟩
  else none

/-! ### The host's side of the read-out -/

/-- What the host takes from the status word of a complete run: `DEPTH`, `LEN`, `NREC` (R151). -/
structure RunReport where
  depth : Depth
  len : BitVec 32
  nrec : BitVec 16
  deriving DecidableEq, Repr

/-- The host's check of the response to `RDSTAT`: `OK`, and in the status word `FAULT = 0`, `GOPEN = 0`, `CUR = 0` (R151)
and a depth (R222); the fields where R93 puts them.  None: the run's result is not read out. -/
def RunReport.ofResponse (r : Response) : Option RunReport :=
  if r.status = .ok ∧ r.data.extractLsb' 48 4 = 0#4 ∧ r.data.getLsbD 60 = false ∧ r.data.extractLsb' 56 4 = 0#4 then
    (Depth.ofField (r.data.extractLsb' 52 4)).map fun d => ⟨d, r.data.extractLsb' 0 32, r.data.extractLsb' 32 16⟩
  else none

/-- The commands after `RDSTAT`: `RDBS a` for a = 0 to `LEN - 1`, then `RDREC i` for i = 0 to `NREC - 1` (R151). -/
def readOutCommands (q : RunReport) : List Instr :=
  (List.range q.len.toNat).map (fun a => .rdbs (BitVec.ofNat 32 a))
    ++ (List.range q.nrec.toNat).map (fun i => .rdrec (BitVec.ofNat 16 i))

/-- The record in bits 111:0 of a response's data (R35, R76). -/
def recordOfData (v : BitVec 128) : Record where
  offset := v.extractLsb' 0 32
  width := v.extractLsb' 32 16
  height := v.extractLsb' 48 16
  xAdvance := v.extractLsb' 64 16
  xOffset := v.extractLsb' 80 16
  yOffset := v.extractLsb' 96 16

/-- The asset the host puts together from the responses to `readOutCommands`: the bytes, then the records, with its own
part (R151).  None if a response is missing or is a fault. -/
def RunReport.asset (q : RunReport) (m : HostPart) (rs : List Response) : Option FontAsset :=
  if rs.length = q.len.toNat + q.nrec.toNat ∧ rs.all (fun r => decide (r.status = .ok)) = true then
    some ⟨q.depth, (rs.take q.len.toNat).map fun r => r.data.setWidth 8,
      (rs.drop q.len.toNat).map fun r => recordOfData r.data, m.first, m.last, m.yAdvance⟩
  else none

end Sys2Proof.Machine
end

