-- ==== Sys2Proof/Safety.lean ====
section
/-! DEFINITION. What the claims are stated with: the invariants of 10_state.md (R38 to R40), the laws of
the packed format (R55, R108, R140), the common checks (R186), and sequences of commands. -/

namespace Sys2Proof.Machine

/-! ### Invariants that hold between commands -/

/-- `ceil(P * d / 8)`: the bytes that P samples of d bits take (R55, R108). -/
def packedLength (bits count : Nat) : Nat := (count * bits + 7) / 8

/-- The bytes the record's glyph takes at a depth (R140). -/
def Record.packedLength (bits : Nat) (r : Record) : Nat :=
  Sys2Proof.Machine.packedLength bits (r.width.toNat * r.height.toNat)

/-- The address after the last byte of the record's glyph (R40(d), R40(e)). -/
def Record.endAt (bits : Nat) (r : Record) : Nat := r.offset.toNat + r.packedLength bits

/-- The packer's invariants, R38. -/
structure State.PackInv (s : State) : Prop where
  /-- R38(a). -/
  cur_lt : s.cur.toNat < 8
  /-- R38(b), configured. -/
  cur_lane : ∀ d, s.depth = .configured d → d.bits ∣ s.cur.toNat
  /-- R38(b), not configured. -/
  cur_zero : s.depth = .notConfigured → s.cur = 0#4
  /-- R38(c): the bits of `ACC` at and above the cursor are zero. -/
  acc_clear : s.acc.toNat < 2 ^ s.cur.toNat
  /-- R38(d). -/
  eight_zero : s.depth = .configured .eight → s.cur = 0#4

/-- The unpacker's invariants, R39. -/
structure State.UnpkInv (s : State) : Prop where
  /-- R39(a). -/
  ucur_lt : s.ucur.toNat < 8
  /-- R39(b), configured. -/
  ucur_lane : ∀ d, s.depth = .configured d → d.bits ∣ s.ucur.toNat
  /-- R39(b), not configured. -/
  unconfigured : s.depth = .notConfigured → s.ucur = 0#4 ∧ s.uvalid = false
  /-- R39(c). -/
  no_decoder : s.uvalid = false → s.uptr = 0#32 ∧ s.ucur = 0#4

/-- The stores' and the formatter's invariants: R40, with the cells that have a value (R26, R35), and one clause that
R40 leaves to inference, `recs_before_glyph` (DEDUCED, log 12). -/
structure State.StoreInv (p : Params) (s : State) : Prop where
  /-- R40(a). -/
  len_le : s.len.toNat ≤ p.bsCap
  /-- R40(a). -/
  nrec_le : s.nrec.toNat ≤ p.recCap
  /-- R26: exactly the cells below `LEN` have a value. -/
  bs_cells : s.bs.map Prod.fst = List.range s.len.toNat
  /-- R35: exactly the cells below `NREC` have a value. -/
  rec_cells : s.recs.map Prod.fst = List.range s.nrec.toNat
  /-- R40(b). -/
  glyph : s.gopen = true →
    s.gOff.toNat ≤ s.len.toNat ∧ s.gCnt.toNat ≤ s.glyphSize ∧ s.nrec.toNat < p.recCap
      ∧ s.len.toNat = s.gOff.toNat + s.gCnt.toNat * s.depth.bits / 8
      ∧ s.cur.toNat = s.gCnt.toNat * s.depth.bits % 8
  /-- R40(d). -/
  rec_end : ∀ i r, Memory.read s.recs i = some r →
    r.offset.toNat ≤ s.len.toNat ∧ r.endAt s.depth.bits ≤ s.len.toNat
  /-- An open glyph starts at or after the end of every record's glyph (DEDUCED, log 12). -/
  recs_before_glyph : s.gopen = true →
    ∀ i r, Memory.read s.recs i = some r → r.endAt s.depth.bits ≤ s.gOff.toNat
  /-- R40(e), the inequality. -/
  rec_chain : ∀ i r r', Memory.read s.recs i = some r → Memory.read s.recs (i + 1) = some r' →
    r.endAt s.depth.bits ≤ r'.offset.toNat
  /-- R40(f). -/
  unconfigured : s.depth = .notConfigured → s.len = 0#32 ∧ s.nrec = 0#16 ∧ s.gopen = false

/-- What holds between commands: R38, R39, R40, and that `F_LOCKED` is never the value of `FAULT` (R181). -/
structure State.Inv (p : Params) (s : State) : Prop where
  pack : s.PackInv
  unpk : s.UnpkInv
  store : s.StoreInv p
  fault_recorded : s.fault ≠ .locked

/-- The offset law of R140 between commands: each record's offset is the packed length of all the records before it;
an open glyph's offset, and with none open `LEN`, is that of all the records. -/
structure State.OffsetLaw (s : State) : Prop where
  offset_eq : ∀ i k r, s.recs[i]? = some (k, r) →
    r.offset.toNat = ((s.recs.take i).map fun c => c.2.packedLength s.depth.bits).sum
  glyph_eq : s.gopen = true →
    s.gOff.toNat = (s.recs.map fun c => c.2.packedLength s.depth.bits).sum
  len_eq : s.gopen = false →
    s.len.toNat = (s.recs.map fun c => c.2.packedLength s.depth.bits).sum ∧ s.cur = 0#4

/-! ### The checks common to all commands but `CFG` and `RDSTAT` -/

/-- Steps 2 and 3 of R186 for a command: a locked block answers `F_LOCKED` and changes nothing (R182); an unconfigured
one raises `F_NOCFG` (R185). -/
def CommonChecks (i : Instr) : Prop :=
  ∀ s : State,
    (s.fault ≠ .ok → exec i s = .next { s with output := s.output ++ [⟨.locked, 0#128⟩] })
    ∧ (s.fault = .ok → s.depth = .notConfigured →
        exec i s = .next { s with fault := .noCfg, output := s.output ++ [⟨.noCfg, 0#128⟩] })

/-! ### Sequences of commands -/

/-- Commands executed one after another, in the order issued (R61). -/
def execAll : List Instr → State → Host.Outcome State Fault Refusal
  | [], s => .next s
  | i :: is, s =>
    match exec i s with
    | .next t => execAll is t
    | .fault f => .fault f
    | .refused r => .refused r

/-- Byte j of a unit of encoding: lane k holds masked sample j*n + k, n = 8 / d, and a lane without a sample is zero (R55). -/
def unitByte (d : Depth) (xs : List (BitVec 8)) (j : Nat) : BitVec 8 :=
  (List.range (8 / d.bits)).foldl
    (fun b k => b ||| placeSample d (xs.getD (j * (8 / d.bits) + k) 0#8) (k * d.bits)) 0#8

end Sys2Proof.Machine
end

