-- ==== Sys2Proof/Certificates/Slice0/Obligations.lean ====
section
/-! DEFINITION. The statements for the provers.  `Config.params` holds the two capacities, of which nothing but R6's
ranges is known: each statement holds at every one.  The common checks of R186 are stated once
(`LockedBlockRefusesCommands`, `UnconfiguredBlockRefusesCommands`, `IllegalWordRaisesIllegal`); the statement of a
command's own rule names them as `CommonChecks` and then speaks of a block that has passed them: `s.fault = .ok` and
`s.depth = .configured d`. -/

open Sys2Proof Sys2Proof.Machine

/-! ### Encoding (30_encoding.md) -/

/-- R70 to R73: every command's word decodes to it, its operands at every value. -/
def Obligations.DecodeOfEncodeIsTheCommand : Prop :=
  ∀ i : Instr, decode (encode i) = .ok i

/-- R70 to R75: a word that decodes is the word of the command it decodes to, so no two words are one command and no
bit is dropped. -/
def Obligations.EncodeOfDecodeIsTheWord : Prop :=
  ∀ (w : Word) (i : Instr), decode w = .ok i → encode i = w

/-- R71, R73 to R75: the decoder, which reads the opcode and then the reserved bits, accepts exactly the words that
R71's match and mask table selects. -/
def Obligations.DecodeAcceptsExactlyWellFormedWords : Prop :=
  ∀ w : Word, (∃ i, decode w = .ok i) ↔ wellFormedWord w = true

/-- R71: "The ten (match, mask) pairs are disjoint: no word selects two commands". -/
def Obligations.OpcodeRowsAreDisjoint : Prop :=
  opcodeTable.length = 10 ∧ ∀ (w : Word) (r r' : OpcodeRow), r ∈ opcodeTable → r' ∈ opcodeTable →
    r.selects w = true → r'.selects w = true → r = r'

/-- Words of section 2.1 of 95_test_vectors.md. -/
def Obligations.WorkedWordsDecodeAsTabled : Prop :=
  decode 0x010000000000000F#64 = .ok (.cfg 15#4)
    ∧ decode 0x31000005FFFF0002#64 = .ok (.gend 0x0002#16 0xFFFF#16 0x0005#16)
    ∧ decode 0x3000000000020001#64 = .ok (.gbegin 1#16 2#16)
    ∧ decode 0x0100000000000012#64 = .error .reservedBits
    ∧ decode 0x3101000000000000#64 = .error .reservedBits
    ∧ decode 0xFF00000000000000#64 = .error .reservedOpcode

/-- R56: a command carried over a byte-wide channel, little-endian, arrives as it was, whatever follows it. -/
def Obligations.CommandBytesRoundTrip : Prop :=
  ∀ (i : Instr) (more : List Byte), (encodeBytes i).length = 8 ∧ decodeBytes (encodeBytes i ++ more) = .ok (i, more)

/-! ### One step, and the checks common to all commands -/

/-- R3, R4: a step takes the word the host presents and is the execution of the command it decodes to. -/
def Obligations.StepRunsTheDecodedCommand : Prop :=
  ∀ (s : State) (w : Word) (rest : List HostAction) (i : Instr),
    s.input = .command w :: rest → decode w = .ok i → step s = exec i { s with input := rest }

/-- R74, R75: a word with a nonzero reserved payload bit, or an opcode not listed (246 of the 256), raises `F_ILLEGAL`
and executes nothing. -/
def Obligations.IllegalWordRaisesIllegal : Prop :=
  (∀ (s : State) (w : Word) (rest : List HostAction),
    s.input = .command w :: rest → wellFormedWord w = false →
      step s = .next { s with
        input := rest
        fault := if s.fault = .ok then .illegal else s.fault
        output := s.output ++ [⟨.illegal, 0#128⟩] })
    ∧ ((List.range 256).filter fun k => opcodeTable.all fun r => r.pattern.extractLsb' 56 8 != BitVec.ofNat 8 k).length
        = 246

/-- R3, R211: with no action of the host the block waits and keeps all its state (the model's form of it, log 3). -/
def Obligations.BlockWaitsForTheHost : Prop :=
  ∀ s : State, s.input = [] → step s = .next s

/-- R43, R210: reset, whatever command it finds in flight, puts every register at 0, leaves no cell of a store with a
value, and returns no response. -/
def Obligations.HostResetClearsTheBlock : Prop :=
  ∀ (s : State) (lost : Option Word) (rest : List HostAction), s.input = .reset lost :: rest →
    ∃ t, step s = .next t ∧ t.depth = .notConfigured ∧ t.acc = 0#8 ∧ t.cur = 0#4 ∧ t.len = 0#32
      ∧ (∀ a, Memory.read t.bs a = none) ∧ t.uvalid = false ∧ t.uptr = 0#32 ∧ t.ucur = 0#4 ∧ t.gopen = false
      ∧ t.gOff = 0#32 ∧ t.gW = 0#16 ∧ t.gH = 0#16 ∧ t.gCnt = 0#32 ∧ t.nrec = 0#16
      ∧ (∀ k, Memory.read t.recs k = none) ∧ t.fault = .ok ∧ t.input = rest ∧ t.output = s.output

/-- R44: the reset column. -/
def Obligations.ResetStateIsAllZero : Prop :=
  State.reset.depth = .notConfigured ∧ State.reset.acc = 0#8 ∧ State.reset.cur = 0#4 ∧ State.reset.len = 0#32
    ∧ (∀ a, Memory.read State.reset.bs a = none) ∧ State.reset.uvalid = false ∧ State.reset.uptr = 0#32
    ∧ State.reset.ucur = 0#4 ∧ State.reset.gopen = false ∧ State.reset.gOff = 0#32 ∧ State.reset.gW = 0#16
    ∧ State.reset.gH = 0#16 ∧ State.reset.gCnt = 0#32 ∧ State.reset.nrec = 0#16
    ∧ (∀ k, Memory.read State.reset.recs k = none) ∧ State.reset.fault = .ok

/-- R182: a locked block answers `F_LOCKED` to every well-formed command but `CFG` and `RDSTAT`, and `F_ILLEGAL` to an
ill-formed word, and changes nothing. -/
def Obligations.LockedBlockRefusesCommands : Prop :=
  (∀ (i : Instr) (s : State), s.fault ≠ .ok → (∀ d, i ≠ .cfg d) → i ≠ .rdstat →
    exec i s = .next { s with output := s.output ++ [⟨.locked, 0#128⟩] })
  ∧ ∀ (s : State) (w : Word) (rest : List HostAction), s.fault ≠ .ok →
      s.input = .command w :: rest → wellFormedWord w = false →
        step s = .next { s with input := rest, output := s.output ++ [⟨.illegal, 0#128⟩] }

/-- R185: while `DEPTH = 0` every command but `CFG` and `RDSTAT` raises `F_NOCFG`, and thereby locks the block. -/
def Obligations.UnconfiguredBlockRefusesCommands : Prop :=
  ∀ (i : Instr) (s : State), s.fault = .ok → s.depth = .notConfigured → (∀ d, i ≠ .cfg d) → i ≠ .rdstat →
    exec i s = .next { s with fault := .noCfg, output := s.output ++ [⟨.noCfg, 0#128⟩] }

/-- R181: a command that ends with a fault status records it if it is the first and changes nothing else; `F_LOCKED` is
only raised in a locked block and never becomes the value of `FAULT`. -/
def Obligations.FaultIsRecordedAndChangesNothingElse : Prop :=
  ∀ (s t : State) (w : Word) (rest : List HostAction),
    s.input = .command w :: rest → step s = .next t →
      (∀ r, t.output = s.output ++ [r] → r.status ≠ .ok →
        t = { s with
          input := rest
          fault := if s.fault = .ok then r.status else s.fault
          output := s.output ++ [r] }
        ∧ (r.status = .locked → s.fault ≠ .ok))
      ∧ (s.fault ≠ .locked → t.fault ≠ .locked)

/-- R76, R223: a command word gets exactly one response, the responses in the order of the commands; a fault's data
is 0. -/
def Obligations.OneResponsePerCommand : Prop :=
  ∀ (s t : State) (w : Word) (rest : List HostAction),
    s.input = .command w :: rest → step s = .next t →
      t.input = rest ∧ ∃ r, t.output = s.output ++ [r] ∧ (r.status ≠ .ok → r.data = 0#128)

/-! ### `CFG` and `RDSTAT` (40_config.md) -/

/-- R90: the encoding of `CFG`; an illegal depth raises `F_CONFIG`; with a legal one, in every state, it sets the depth
and returns everything else to its reset value. -/
def Obligations.CfgStartsARun : Prop :=
  (∀ (w : Word) (d : BitVec 4), decode w = .ok (.cfg d) ↔ w = 0x01#8 ++ 0#52 ++ d)
  ∧ (∀ (s : State) (d : BitVec 4), d ∉ [1#4, 2#4, 4#4, 8#4] → exec (.cfg d) s = raise .config s)
  ∧ ∀ (s : State) (d : BitVec 4) (e : Depth),
      (d, e) ∈ [(1#4, Depth.one), (2#4, .two), (4#4, .four), (8#4, .eight)] →
        exec (.cfg d) s = .next
          { depth := .configured e, acc := 0#8, cur := 0#4, len := 0#32, bs := [], uvalid := false, uptr := 0#32
            ucur := 0#4, gopen := false, gOff := 0#32, gW := 0#16, gH := 0#16, gCnt := 0#32, nrec := 0#16, recs := []
            fault := .ok, input := s.input, output := s.output ++ [⟨.ok, 0#128⟩] }

/-- R91: any other depth raises `F_CONFIG`, in every state, and changes nothing but a `FAULT` that was 0. -/
def Obligations.CfgRejectsOtherDepths : Prop :=
  ∀ (s : State) (d : BitVec 4), d ∉ [1#4, 2#4, 4#4, 8#4] →
    exec (.cfg d) s = .next { s with
      fault := if s.fault = .ok then .config else s.fault
      output := s.output ++ [⟨.config, 0#128⟩] }

/-- R93: the encoding of `RDSTAT`; in every state it answers the status word and changes nothing. -/
def Obligations.RdstatReturnsTheStatusWord : Prop :=
  (∀ w : Word, decode w = .ok .rdstat ↔ w = 0x42#8 ++ 0#56)
  ∧ ∀ s : State, ∃ v : Data, exec .rdstat s = .next { s with output := s.output ++ [⟨.ok, v⟩] }
      ∧ v.extractLsb' 0 32 = s.len ∧ v.extractLsb' 32 16 = s.nrec ∧ v.extractLsb' 48 4 = s.fault.code
      ∧ v.extractLsb' 52 4 = s.depth.field ∧ v.extractLsb' 56 4 = s.cur ∧ v.getLsbD 60 = s.gopen
      ∧ v.getLsbD 61 = s.uvalid ∧ v.extractLsb' 62 2 = 0#2 ∧ v.extractLsb' 64 32 = s.uptr
      ∧ v.extractLsb' 96 4 = s.ucur ∧ v.extractLsb' 100 8 = s.acc ∧ v.extractLsb' 108 20 = 0#20

/-! ### `ENC` and `COMMIT` (41_packer.md) -/

/-- R100: the four masks; masking keeps a sample's low `DEPTH` bits; `ENC` masks whatever it is given. -/
def Obligations.MaskKeepsTheLowBits : Prop :=
  Depth.one.mask = 0x01#8 ∧ Depth.two.mask = 0x03#8 ∧ Depth.four.mask = 0x0F#8 ∧ Depth.eight.mask = 0xFF#8
  ∧ (∀ (d : Depth) (x : Byte), (maskSample d x).toNat = x.toNat % 2 ^ d.bits)
  ∧ ∀ (s : State) (d : Depth) (x : Byte), s.depth = .configured d → exec (.enc x) s = exec (.enc (x &&& d.mask)) s

/-- R101: the encoding and the common checks of `ENC`; its two faults in order; a sample that fills a lane; a sample that completes the byte. -/
def Obligations.EncPacksOneSample : Prop :=
  (∀ (w : Word) (x : Byte), decode w = .ok (.enc x) ↔ w = 0x10#8 ++ 0#48 ++ x)
  ∧ (∀ x : Byte, CommonChecks (.enc x))
  ∧ ∀ (s : State) (d : Depth) (x : Byte), s.fault = .ok → s.depth = .configured d →
    (s.gopen = true ∧ s.gCnt.toNat = s.gW.toNat * s.gH.toNat →
      exec (.enc x) s = .next { s with fault := .count, output := s.output ++ [⟨.count, 0#128⟩] })
    ∧ (¬ (s.gopen = true ∧ s.gCnt.toNat = s.gW.toNat * s.gH.toNat) →
      s.cur.toNat + d.bits = 8 → s.len.toNat = Config.params.bsCap →
      exec (.enc x) s = .next { s with fault := .cap, output := s.output ++ [⟨.cap, 0#128⟩] })
    ∧ (¬ (s.gopen = true ∧ s.gCnt.toNat = s.gW.toNat * s.gH.toNat) → s.cur.toNat + d.bits < 8 →
      exec (.enc x) s = .next { s with
        acc := s.acc ||| ((x &&& d.mask) <<< s.cur.toNat)
        cur := BitVec.ofNat 4 (s.cur.toNat + d.bits)
        gCnt := if s.gopen then s.gCnt + 1#32 else s.gCnt
        output := s.output ++ [⟨.ok, 0#128⟩] })
    ∧ (¬ (s.gopen = true ∧ s.gCnt.toNat = s.gW.toNat * s.gH.toNat) → 8 ≤ s.cur.toNat + d.bits →
      ¬ (s.cur.toNat + d.bits = 8 ∧ s.len.toNat = Config.params.bsCap) →
      exec (.enc x) s = .next { s with
        bs := Memory.write s.bs s.len.toNat (s.acc ||| ((x &&& d.mask) <<< s.cur.toNat))
        len := s.len + 1#32
        acc := 0#8
        cur := 0#4
        gCnt := if s.gopen then s.gCnt + 1#32 else s.gCnt
        output := s.output ++ [⟨.ok, 0#128⟩] })

/-- R54: between commands (`State.PackInv`), `ENC` puts bit j of the sample at bit `CUR + j` of its byte for the low
`DEPTH` bits, keeps the bits below `CUR` and leaves those above the lane zero.  The byte is `ACC`, or the one appended. -/
def Obligations.EncFillsItsLane : Prop :=
  ∀ (s t : State) (d : Depth) (x : Byte), s.PackInv → s.fault = .ok → s.depth = .configured d →
    exec (.enc x) s = .next t → t.fault = .ok →
      ∃ b : Byte,
        (s.cur.toNat + d.bits < 8 → t.acc = b ∧ t.cur.toNat = s.cur.toNat + d.bits ∧ t.len = s.len)
        ∧ (¬ s.cur.toNat + d.bits < 8 →
            Memory.read t.bs s.len.toNat = some b ∧ t.acc = 0#8 ∧ t.cur = 0#4 ∧ t.len = s.len + 1#32)
        ∧ ∀ j, j < 8 → b.getLsbD j =
            if j < s.cur.toNat then s.acc.getLsbD j
            else if j < s.cur.toNat + d.bits then x.getLsbD (j - s.cur.toNat) else false

/-- R103: at depth 8 the byte appended by `ENC s` is `s`, and the `DEC` that reads a byte returns it whole. -/
def Obligations.DepthEightIsTheIdentity : Prop :=
  (∀ (s : State) (x : Byte), s.PackInv → s.fault = .ok → s.depth = .configured .eight →
    ¬ (s.gopen = true ∧ s.gCnt.toNat = s.gW.toNat * s.gH.toNat) → s.len.toNat ≠ Config.params.bsCap →
    exec (.enc x) s = .next { s with
      bs := Memory.write s.bs s.len.toNat x
      len := s.len + 1#32
      gCnt := if s.gopen then s.gCnt + 1#32 else s.gCnt
      output := s.output ++ [⟨.ok, 0#128⟩] })
  ∧ ∀ (s : State) (x : Byte), s.UnpkInv → s.fault = .ok → s.depth = .configured .eight → s.uvalid = true →
      s.uptr.toNat < s.len.toNat → Memory.read s.bs s.uptr.toNat = some x →
      exec .dec s = .next { s with uptr := s.uptr + 1#32, output := s.output ++ [⟨.ok, x.setWidth 128⟩] }

/-- R105, R106: the encoding of `COMMIT`; refused while a glyph is open; a full store; with nothing pending it does
nothing; with a byte pending it appends it. -/
def Obligations.CommitFlushesThePendingByte : Prop :=
  (∀ w : Word, decode w = .ok .commit ↔ w = 0x11#8 ++ 0#56)
  ∧ CommonChecks .commit
  ∧ ∀ (s : State) (d : Depth), s.fault = .ok → s.depth = .configured d →
    (s.gopen = true →
      exec .commit s = .next { s with fault := .seq, output := s.output ++ [⟨.seq, 0#128⟩] })
    ∧ (s.gopen = false → s.cur ≠ 0#4 → s.len.toNat = Config.params.bsCap →
      exec .commit s = .next { s with fault := .cap, output := s.output ++ [⟨.cap, 0#128⟩] })
    ∧ (s.gopen = false → s.cur = 0#4 →
      exec .commit s = .next { s with output := s.output ++ [⟨.ok, 0#128⟩] })
    ∧ (s.gopen = false → s.cur ≠ 0#4 → s.len.toNat ≠ Config.params.bsCap →
      exec .commit s = .next { s with
        bs := Memory.write s.bs s.len.toNat s.acc
        len := s.len + 1#32
        acc := 0#8
        cur := 0#4
        output := s.output ++ [⟨.ok, 0#128⟩] })

/-! ### `SEEK` and `DEC` (42_unpacker.md) -/

/-- R116: the encoding of `SEEK`; it accepts every offset, unchecked. -/
def Obligations.SeekConstructsTheDecoder : Prop :=
  (∀ (w : Word) (off : BitVec 32), decode w = .ok (.seek off) ↔ w = 0x20#8 ++ 0#24 ++ off)
  ∧ (∀ off : BitVec 32, CommonChecks (.seek off))
  ∧ ∀ (s : State) (d : Depth) (off : BitVec 32), s.fault = .ok → s.depth = .configured d →
      exec (.seek off) s = .next { s with
        uptr := off
        ucur := 0#4
        uvalid := true
        output := s.output ++ [⟨.ok, 0#128⟩] }

/-- R118: the encoding of `DEC`; its two faults in order; the sample it returns and where it leaves the cursor. -/
def Obligations.DecReturnsTheNextSample : Prop :=
  (∀ w : Word, decode w = .ok .dec ↔ w = 0x21#8 ++ 0#56)
  ∧ CommonChecks .dec
  ∧ ∀ (s : State) (d : Depth), s.fault = .ok → s.depth = .configured d →
    (s.uvalid = false →
      exec .dec s = .next { s with fault := .seq, output := s.output ++ [⟨.seq, 0#128⟩] })
    ∧ (s.uvalid = true → s.len.toNat ≤ s.uptr.toNat →
      exec .dec s = .next { s with fault := .bounds, output := s.output ++ [⟨.bounds, 0#128⟩] })
    ∧ ∀ b : Byte, s.uvalid = true → s.uptr.toNat < s.len.toNat → Memory.read s.bs s.uptr.toNat = some b →
      (s.ucur.toNat + d.bits < 8 →
        exec .dec s = .next { s with
          ucur := BitVec.ofNat 4 (s.ucur.toNat + d.bits)
          output := s.output ++ [⟨.ok, ((b >>> s.ucur.toNat) &&& d.mask).setWidth 128⟩] })
      ∧ (8 ≤ s.ucur.toNat + d.bits →
        exec .dec s = .next { s with
          uptr := s.uptr + 1#32
          ucur := 0#4
          output := s.output ++ [⟨.ok, ((b >>> s.ucur.toNat) &&& d.mask).setWidth 128⟩] })

/-- R120: where byte `UPTR` holds masked samples in its lanes (a lane without one holds 0), the next 8 / `DEPTH` `DEC`
return them in order. -/
def Obligations.DecUndoesEncOnOneByte : Prop :=
  ∀ (s : State) (d : Depth) (xs : List Byte), s.fault = .ok → s.depth = .configured d → s.uvalid = true →
    s.ucur = 0#4 → s.uptr.toNat < s.len.toNat → Memory.read s.bs s.uptr.toNat = some (unitByte d xs 0) →
      execAll (List.replicate (8 / d.bits) .dec) s = .next { s with
        uptr := s.uptr + 1#32
        output := s.output ++ (List.range (8 / d.bits)).map fun k =>
          ⟨.ok, (maskSample d (xs.getD k 0#8)).setWidth 128⟩ }

/-! ### `GBEGIN`, `GEND` and `RDREC` (43_glyph_record.md) -/

/-- R131, R132: the encoding of `GBEGIN`; its three refusals in order; opening a glyph captures the bitstream's
length. -/
def Obligations.GbeginOpensAGlyph : Prop :=
  (∀ (v : Word) (w h : BitVec 16), decode v = .ok (.gbegin w h) ↔ v = 0x30#8 ++ 0#24 ++ h ++ w)
  ∧ (∀ w h : BitVec 16, CommonChecks (.gbegin w h))
  ∧ ∀ (s : State) (d : Depth) (w h : BitVec 16), s.fault = .ok → s.depth = .configured d →
    (s.gopen = true →
      exec (.gbegin w h) s = .next { s with fault := .seq, output := s.output ++ [⟨.seq, 0#128⟩] })
    ∧ (s.gopen = false → s.cur ≠ 0#4 →
      exec (.gbegin w h) s = .next { s with fault := .seq, output := s.output ++ [⟨.seq, 0#128⟩] })
    ∧ (s.gopen = false → s.cur = 0#4 → s.nrec.toNat = Config.params.recCap →
      exec (.gbegin w h) s = .next { s with fault := .cap, output := s.output ++ [⟨.cap, 0#128⟩] })
    ∧ (s.gopen = false → s.cur = 0#4 → s.nrec.toNat ≠ Config.params.recCap →
      exec (.gbegin w h) s = .next { s with
        gOff := s.len
        gW := w
        gH := h
        gCnt := 0#32
        gopen := true
        output := s.output ++ [⟨.ok, 0#128⟩] })

/-- R134: the encoding of `GEND`; its four faults in order; the flush, the record it appends and the index it returns. -/
def Obligations.GendAppendsTheRecord : Prop :=
  (∀ (w : Word) (adv left top : BitVec 16),
    decode w = .ok (.gend adv left top) ↔ w = 0x31#8 ++ 0#8 ++ top ++ left ++ adv)
  ∧ (∀ adv left top : BitVec 16, CommonChecks (.gend adv left top))
  ∧ ∀ (s : State) (d : Depth) (adv left top : BitVec 16), s.fault = .ok → s.depth = .configured d →
    (s.gopen = false →
      exec (.gend adv left top) s = .next { s with fault := .seq, output := s.output ++ [⟨.seq, 0#128⟩] })
    ∧ (s.gopen = true → s.gCnt.toNat ≠ s.gW.toNat * s.gH.toNat →
      exec (.gend adv left top) s = .next { s with fault := .count, output := s.output ++ [⟨.count, 0#128⟩] })
    ∧ (s.gopen = true → s.gCnt.toNat = s.gW.toNat * s.gH.toNat → 1 - top.toInt > 32767 →
      exec (.gend adv left top) s = .next { s with fault := .range, output := s.output ++ [⟨.range, 0#128⟩] })
    ∧ (s.gopen = true → s.gCnt.toNat = s.gW.toNat * s.gH.toNat → 1 - top.toInt ≤ 32767 → s.cur ≠ 0#4 →
      s.len.toNat = Config.params.bsCap →
      exec (.gend adv left top) s = .next { s with fault := .cap, output := s.output ++ [⟨.cap, 0#128⟩] })
    ∧ (s.gopen = true → s.gCnt.toNat = s.gW.toNat * s.gH.toNat → 1 - top.toInt ≤ 32767 → s.cur = 0#4 →
      exec (.gend adv left top) s = .next { s with
        recs := Memory.write s.recs s.nrec.toNat
          { offset := s.gOff, width := s.gW, height := s.gH, xAdvance := adv, xOffset := left
            yOffset := BitVec.ofInt 16 (1 - top.toInt) }
        nrec := s.nrec + 1#16
        gopen := false
        output := s.output ++ [⟨.ok, s.nrec.setWidth 128⟩] })
    ∧ (s.gopen = true → s.gCnt.toNat = s.gW.toNat * s.gH.toNat → 1 - top.toInt ≤ 32767 → s.cur ≠ 0#4 →
      s.len.toNat ≠ Config.params.bsCap →
      exec (.gend adv left top) s = .next { s with
        bs := Memory.write s.bs s.len.toNat s.acc
        len := s.len + 1#32
        acc := 0#8
        cur := 0#4
        recs := Memory.write s.recs s.nrec.toNat
          { offset := s.gOff, width := s.gW, height := s.gH, xAdvance := adv, xOffset := left
            yOffset := BitVec.ofInt 16 (1 - top.toInt) }
        nrec := s.nrec + 1#16
        gopen := false
        output := s.output ++ [⟨.ok, s.nrec.setWidth 128⟩] })

/-- R136, R137: in a block where `GEND` has no other fault, the record's `yOffset`, read as signed, is `1 - top`, from
-32766 on, unless `top` is -32767 or -32768, for which `GEND` raises `F_RANGE` and writes nothing: it never wraps. -/
def Obligations.YOffsetIsOneMinusTop : Prop :=
  ∀ (s : State) (d : Depth) (adv left top : BitVec 16), s.fault = .ok → s.depth = .configured d →
    s.gopen = true → s.gCnt.toNat = s.gW.toNat * s.gH.toNat →
    ¬ (s.cur ≠ 0#4 ∧ s.len.toNat = Config.params.bsCap) →
      (top.toInt ≠ -32767 → top.toInt ≠ -32768 →
        ∃ t r, exec (.gend adv left top) s = .next t ∧ Memory.read t.recs s.nrec.toNat = some r
          ∧ r.yOffset.toInt = 1 - top.toInt ∧ -32766 ≤ r.yOffset.toInt)
      ∧ (top.toInt = -32767 ∨ top.toInt = -32768 →
        exec (.gend adv left top) s = .next { s with fault := .range, output := s.output ++ [⟨.range, 0#128⟩] })

/-- R141: the encoding of `RDREC`; the bound; the record's fields where R35 puts them, and no state changed. -/
def Obligations.RdrecReturnsTheRecord : Prop :=
  (∀ (w : Word) (idx : BitVec 16), decode w = .ok (.rdrec idx) ↔ w = 0x40#8 ++ 0#40 ++ idx)
  ∧ (∀ idx : BitVec 16, CommonChecks (.rdrec idx))
  ∧ ∀ (s : State) (d : Depth) (idx : BitVec 16), s.fault = .ok → s.depth = .configured d →
    (s.nrec.toNat ≤ idx.toNat →
      exec (.rdrec idx) s = .next { s with fault := .bounds, output := s.output ++ [⟨.bounds, 0#128⟩] })
    ∧ ∀ r : Record, idx.toNat < s.nrec.toNat → Memory.read s.recs idx.toNat = some r →
        ∃ v : Data, exec (.rdrec idx) s = .next { s with output := s.output ++ [⟨.ok, v⟩] }
          ∧ v.extractLsb' 0 32 = r.offset ∧ v.extractLsb' 32 16 = r.width ∧ v.extractLsb' 48 16 = r.height
          ∧ v.extractLsb' 64 16 = r.xAdvance ∧ v.extractLsb' 80 16 = r.xOffset ∧ v.extractLsb' 96 16 = r.yOffset
          ∧ v.extractLsb' 112 16 = 0#16

/-! ### `RDBS` (44_readback.md) -/

/-- R150: the encoding of `RDBS`; the bound; the byte, and no state changed. -/
def Obligations.RdbsReturnsTheByte : Prop :=
  (∀ (w : Word) (addr : BitVec 32), decode w = .ok (.rdbs addr) ↔ w = 0x41#8 ++ 0#24 ++ addr)
  ∧ (∀ addr : BitVec 32, CommonChecks (.rdbs addr))
  ∧ ∀ (s : State) (d : Depth) (addr : BitVec 32), s.fault = .ok → s.depth = .configured d →
    (s.len.toNat ≤ addr.toNat →
      exec (.rdbs addr) s = .next { s with fault := .bounds, output := s.output ++ [⟨.bounds, 0#128⟩] })
    ∧ ∀ b : Byte, addr.toNat < s.len.toNat → Memory.read s.bs addr.toNat = some b →
        exec (.rdbs addr) s = .next { s with output := s.output ++ [⟨.ok, b.setWidth 128⟩] }

/-! ### What the commands leave unchanged -/

/-- R9, R44, R102(f), R105: `ENC` and `COMMIT`.  `ENC` may write `ACC`, `CUR`, `LEN`, `G_CNT` and the byte at `LEN` when it
completes it; `COMMIT` may write `ACC`, `CUR`, `LEN` and the byte at `LEN` when bits are pending. -/
def Obligations.PackerCommandsFrame : Prop :=
  (∀ (s t : State) (x : Byte), exec (.enc x) s = .next t →
    t.depth = s.depth ∧ t.uvalid = s.uvalid ∧ t.uptr = s.uptr ∧ t.ucur = s.ucur ∧ t.gopen = s.gopen
    ∧ t.gOff = s.gOff ∧ t.gW = s.gW ∧ t.gH = s.gH ∧ t.nrec = s.nrec ∧ t.recs = s.recs ∧ t.input = s.input
    ∧ (s.gopen = false → t.gCnt = s.gCnt)
    ∧ (∀ r, t.output = s.output ++ [r] → r.status = .ok → t.fault = s.fault)
    ∧ ∀ a, (∀ d, s.depth = .configured d → 8 ≤ s.cur.toNat + d.bits → a ≠ s.len.toNat) →
        Memory.read t.bs a = Memory.read s.bs a)
  ∧ ∀ s t : State, exec .commit s = .next t →
    t.depth = s.depth ∧ t.uvalid = s.uvalid ∧ t.uptr = s.uptr ∧ t.ucur = s.ucur ∧ t.gopen = s.gopen
    ∧ t.gOff = s.gOff ∧ t.gW = s.gW ∧ t.gH = s.gH ∧ t.gCnt = s.gCnt ∧ t.nrec = s.nrec ∧ t.recs = s.recs
    ∧ t.input = s.input
    ∧ (∀ r, t.output = s.output ++ [r] → r.status = .ok → t.fault = s.fault)
    ∧ ∀ a, (s.cur ≠ 0#4 → a ≠ s.len.toNat) → Memory.read t.bs a = Memory.read s.bs a

/-- R60, R115, R119(e): `SEEK` and `DEC` write only the unpacker's registers, and `DEC` leaves `UVALID`. -/
def Obligations.UnpackerCommandsFrame : Prop :=
  ∀ (i : Instr) (s t : State), (i = .dec ∨ ∃ off, i = .seek off) → exec i s = .next t →
    t.depth = s.depth ∧ t.acc = s.acc ∧ t.cur = s.cur ∧ t.len = s.len ∧ t.gopen = s.gopen ∧ t.gOff = s.gOff
    ∧ t.gW = s.gW ∧ t.gH = s.gH ∧ t.gCnt = s.gCnt ∧ t.nrec = s.nrec ∧ t.input = s.input
    ∧ (i = .dec → t.uvalid = s.uvalid)
    ∧ (∀ r, t.output = s.output ++ [r] → r.status = .ok → t.fault = s.fault)
    ∧ (∀ a, Memory.read t.bs a = Memory.read s.bs a) ∧ ∀ k, Memory.read t.recs k = Memory.read s.recs k

/-- R60: `RDREC`, `RDBS` and `RDSTAT` change nothing when they succeed, and nothing but `FAULT` when they fault. -/
def Obligations.ReadBackCommandsFrame : Prop :=
  ∀ (i : Instr) (s t : State), (i = .rdstat ∨ (∃ k, i = .rdrec k) ∨ ∃ a, i = .rdbs a) → exec i s = .next t →
    t = { s with fault := t.fault, output := t.output }
    ∧ ∀ r, t.output = s.output ++ [r] → r.status = .ok → t.fault = s.fault

/-- R44, R131: `GBEGIN` appends nothing and touches no register of the packer, the unpacker or the record store. -/
def Obligations.GbeginFrame : Prop :=
  ∀ (s t : State) (w h : BitVec 16), exec (.gbegin w h) s = .next t →
    t.depth = s.depth ∧ t.acc = s.acc ∧ t.cur = s.cur ∧ t.len = s.len ∧ t.uvalid = s.uvalid ∧ t.uptr = s.uptr
    ∧ t.ucur = s.ucur ∧ t.nrec = s.nrec ∧ t.input = s.input
    ∧ (∀ r, t.output = s.output ++ [r] → r.status = .ok → t.fault = s.fault)
    ∧ (∀ a, Memory.read t.bs a = Memory.read s.bs a) ∧ ∀ k, Memory.read t.recs k = Memory.read s.recs k

/-- R44, R134: `GEND` leaves the depth, the unpacker, `G_OFF`, `G_W`, `G_H` and `G_CNT`; the only byte it writes is the
pending one, at `LEN`, and the only record the one at `NREC`. -/
def Obligations.GendFrame : Prop :=
  ∀ (s t : State) (adv left top : BitVec 16), exec (.gend adv left top) s = .next t →
    t.depth = s.depth ∧ t.uvalid = s.uvalid ∧ t.uptr = s.uptr ∧ t.ucur = s.ucur ∧ t.gOff = s.gOff ∧ t.gW = s.gW
    ∧ t.gH = s.gH ∧ t.gCnt = s.gCnt ∧ t.input = s.input
    ∧ (∀ r, t.output = s.output ++ [r] → r.status = .ok → t.fault = s.fault)
    ∧ (∀ a, (s.cur ≠ 0#4 → a ≠ s.len.toNat) → Memory.read t.bs a = Memory.read s.bs a)
    ∧ ∀ k, k ≠ s.nrec.toNat → Memory.read t.recs k = Memory.read s.recs k

/-! ### Rules over the whole machine -/

/-- R5, R22, R44: `DEPTH` changes only in a reset and in a `CFG`. -/
def Obligations.DepthChangesOnlyInCfgAndReset : Prop :=
  ∀ s t : State, step s = .next t → t.depth ≠ s.depth →
    (∃ lost rest, s.input = .reset lost :: rest)
    ∨ ∃ w rest d, s.input = .command w :: rest ∧ decode w = .ok (.cfg d)

/-- R53: within a run a byte below `LEN` and a record below `NREC` keep their values, and `LEN` and `NREC` never
decrease. -/
def Obligations.ReadableCellsNeverChange : Prop :=
  ∀ (i : Instr) (s t : State), s.Inv Config.params → (∀ d, i ≠ .cfg d) → exec i s = .next t →
    s.len.toNat ≤ t.len.toNat ∧ s.nrec.toNat ≤ t.nrec.toNat
    ∧ (∀ a, a < s.len.toNat → Memory.read t.bs a = Memory.read s.bs a)
    ∧ ∀ k, k < s.nrec.toNat → Memory.read t.recs k = Memory.read s.recs k

/-- The canonical form of the two stores (the model's own, log 5), which R26, R35 and R52 make possible: every step keeps
it, from every state that has it. -/
def Obligations.StepKeepsStoresCanonical : Prop :=
  ∀ s t : State, Memory.wf s.bs → Memory.wf s.recs → step s = .next t → Memory.wf t.bs ∧ Memory.wf t.recs

/-- R38: every step keeps the packer's invariants, and under them the cursor has room for one more sample. -/
def Obligations.StepKeepsPackerInvariants : Prop :=
  (∀ s t : State, s.PackInv → step s = .next t → t.PackInv)
  ∧ State.reset.PackInv
  ∧ ∀ (s : State) (d : Depth), s.PackInv → s.depth = .configured d →
      s.cur.toNat + d.bits ≤ 8 ∧ (∀ j, s.cur.toNat ≤ j → s.acc.getLsbD j = false) ∧ (s.cur = 0#4 → s.acc = 0#8)

/-- R39: every step keeps the unpacker's invariants. -/
def Obligations.StepKeepsUnpackerInvariants : Prop :=
  (∀ s t : State, s.UnpkInv → step s = .next t → t.UnpkInv) ∧ State.reset.UnpkInv

/-- R38, R39, R40, R181: every step keeps all the invariants (`State.Inv`; its clause `recs_before_glyph` and its cells'
form are the model's, log 5 and log 12). -/
def Obligations.StepKeepsInvariants : Prop :=
  ∀ s t : State, s.Inv Config.params → step s = .next t → t.Inv Config.params

/-- R38 to R40: the invariants hold after reset. -/
def Obligations.ResetMeetsInvariants : Prop := State.reset.Inv Config.params

/-- R4: every 64-bit word has a defined outcome: in a state that meets the invariants every step answers a next state,
and a command word a response. -/
def Obligations.EveryWordHasAnOutcome : Prop :=
  ∀ s : State, s.Inv Config.params →
    ∃ t, step s = .next t
      ∧ ∀ w rest, s.input = .command w :: rest → ∃ r, t.output = s.output ++ [r]

/-- R42, R61: the responses returned so far and the host's further actions have no part in what a command does. -/
def Obligations.OutcomeIgnoresTheInterface : Prop :=
  ∀ (i : Instr) (s t : State) (inp : List HostAction) (out : List Response), exec i s = .next t →
    exec i { s with input := inp, output := out }
      = .next { t with input := inp, output := out ++ t.output.drop s.output.length }

/-! ### The laws of the packed format -/

/-- R55, R108: from a state with nothing pending and enough room, P samples and one `COMMIT` outside a glyph, or a glyph
of `w * h = P` samples, raise `LEN` by exactly `ceil(P * DEPTH / 8)`; the bytes are those of R55, those below are as
before, and every response is `OK`. -/
def Obligations.UnitOfEncodingLayout : Prop :=
  ∀ (s : State) (d : Depth) (xs : List Byte), s.Inv Config.params → s.fault = .ok → s.depth = .configured d →
    s.cur = 0#4 → s.gopen = false → s.len.toNat + packedLength d.bits xs.length ≤ Config.params.bsCap →
    (∃ t, execAll (xs.map .enc ++ [.commit]) s = .next t
      ∧ t.len.toNat = s.len.toNat + packedLength d.bits xs.length ∧ t.cur = 0#4 ∧ t.fault = .ok
      ∧ t.output = s.output ++ List.replicate (xs.length + 1) ⟨.ok, 0#128⟩
      ∧ (∀ a, a < s.len.toNat → Memory.read t.bs a = Memory.read s.bs a)
      ∧ ∀ j, j < packedLength d.bits xs.length → Memory.read t.bs (s.len.toNat + j) = some (unitByte d xs j))
    ∧ ∀ w h adv left top : BitVec 16, xs.length = w.toNat * h.toNat → s.nrec.toNat ≠ Config.params.recCap →
      1 - top.toInt ≤ 32767 →
      ∃ t, execAll (.gbegin w h :: xs.map .enc ++ [.gend adv left top]) s = .next t
        ∧ t.len.toNat = s.len.toNat + packedLength d.bits xs.length ∧ t.cur = 0#4 ∧ t.fault = .ok
        ∧ t.output = s.output ++ List.replicate (xs.length + 1) ⟨.ok, 0#128⟩ ++ [⟨.ok, s.nrec.setWidth 128⟩]
        ∧ (∀ a, a < s.len.toNat → Memory.read t.bs a = Memory.read s.bs a)
        ∧ (∀ j, j < packedLength d.bits xs.length → Memory.read t.bs (s.len.toNat + j) = some (unitByte d xs j))
        ∧ ∃ r, Memory.read t.recs s.nrec.toNat = some r ∧ r.offset = s.len ∧ r.width = w ∧ r.height = h

/-- R55, R109: the samples of a unit of encoding at address A, flushed by `COMMIT` outside a glyph or by the `GEND` of
its glyph, come back masked and in order from `SEEK A` and as many `DEC`, in every later state of the run in which the
unit's bytes are still those, whatever was encoded before or after. -/
def Obligations.RoundTripLaw : Prop :=
  ∀ (s u : State) (d : Depth) (xs : List Byte), s.Inv Config.params → s.fault = .ok → s.depth = .configured d →
    s.cur = 0#4 → s.gopen = false → s.len.toNat + packedLength d.bits xs.length ≤ Config.params.bsCap →
    u.fault = .ok → u.depth = .configured d →
    (∀ t, execAll (xs.map .enc ++ [.commit]) s = .next t → t.len.toNat ≤ u.len.toNat →
      (∀ a, s.len.toNat ≤ a → a < t.len.toNat → Memory.read u.bs a = Memory.read t.bs a) →
        ∃ v, execAll (.seek s.len :: List.replicate xs.length .dec) u = .next v
          ∧ v.output = u.output ++ ⟨.ok, 0#128⟩ :: xs.map fun x => ⟨.ok, (maskSample d x).setWidth 128⟩)
    ∧ ∀ (t : State) (w h adv left top : BitVec 16), xs.length = w.toNat * h.toNat →
      s.nrec.toNat ≠ Config.params.recCap → 1 - top.toInt ≤ 32767 →
      execAll (.gbegin w h :: xs.map .enc ++ [.gend adv left top]) s = .next t → t.len.toNat ≤ u.len.toNat →
      (∀ a, s.len.toNat ≤ a → a < t.len.toNat → Memory.read u.bs a = Memory.read t.bs a) →
        ∃ v, execAll (.seek s.len :: List.replicate xs.length .dec) u = .next v
          ∧ v.output = u.output ++ ⟨.ok, 0#128⟩ :: xs.map fun x => ⟨.ok, (maskSample d x).setWidth 128⟩

/-- R140: in a run whose every `ENC` is issued inside a glyph, each record's offset is the packed length of all the
records before it, and with no glyph open `LEN` that of all of them: every such command keeps the law. -/
def Obligations.OffsetLawIsKept : Prop :=
  (∀ (i : Instr) (s t : State), s.Inv Config.params → s.OffsetLaw → ((∃ x, i = .enc x) → s.gopen = true) →
    exec i s = .next t → t.OffsetLaw)
  ∧ ∀ d e s t, Depth.ofField d = some e → exec (.cfg d) s = .next t → t.OffsetLaw

/-- R190: a glyph issued as the source's loop issues it (`glyphCommands`, R164) gets no status but `OK`, provided the
stores have room and `1 - top` fits. -/
def Obligations.HostLoopGlyphNeverFaults : Prop :=
  ∀ (s : State) (d : Depth) (m : Bitmap) (q : Metrics) (is : List Instr),
    s.Inv Config.params → s.runComplete → s.depth = .configured d → glyphCommands d m q = some is →
    s.len.toNat + packedLength d.bits (m.width * m.height) ≤ Config.params.bsCap →
    s.nrec.toNat ≠ Config.params.recCap → -32766 ≤ q.topBearing →
      ∃ t, execAll is s = .next t ∧ t.runComplete ∧ t.nrec.toNat = s.nrec.toNat + 1
        ∧ ∀ r ∈ t.output.drop s.output.length, r.status = .ok

/-! ### The software around the block (45_boundary_functions.md) -/

/-- R143, R173: a code point the rasteriser fails on gets no command, as if it were not in the range. -/
def Obligations.SkippedGlyphGetsNoCommand : Prop :=
  ∀ (d : Depth) (before after : List (Option (Bitmap × Metrics))),
    glyphsCommands d (before ++ none :: after) = glyphsCommands d (before ++ after)

/-- R161, R166, R167: the four scales are exact; a quantised pixel fits the depth; expanding it gives the pixel back
exactly when the pixel is a multiple of the scale. -/
def Obligations.QuantiserAndExpander : Prop :=
  (∀ d : Depth, expandScale d * (2 ^ d.bits - 1) = 255)
  ∧ ∀ (d : Depth) (p : Byte), d ≠ .one →
      (quant d p).toNat < 2 ^ d.bits
      ∧ (expandSample d (quant d p).toNat = p.toNat ↔ p.toNat % expandScale d = 0)

/-- R151, R222: `RDSTAT` shows whether the run's result is complete.  If it is, the host's report of it passes, the
read-out commands all answer `OK` and change no register, and what the host puts together from their responses is the
asset of the block's state, its `LEN` bytes and `NREC` records at their addresses; if it is not, the host reads nothing
out and the state holds no asset. -/
def Obligations.ReadOutReturnsTheAsset : Prop :=
  ∀ (s : State) (m : HostPart), s.Inv Config.params →
    (s.runComplete →
      ∃ (r : Response) (q : RunReport) (rs : List Response) (a : FontAsset),
        exec .rdstat s = .next { s with output := s.output ++ [r] } ∧ RunReport.ofResponse r = some q
        ∧ execAll (.rdstat :: readOutCommands q) s = .next { s with output := s.output ++ r :: rs }
        ∧ q.asset m rs = some a ∧ s.asset m = some a
        ∧ s.depth = .configured a.depth ∧ a.first = m.first ∧ a.last = m.last ∧ a.yAdvance = m.yAdvance
        ∧ a.bitstream.length = s.len.toNat ∧ a.records.length = s.nrec.toNat
        ∧ (∀ i, i < s.len.toNat → a.bitstream[i]? = Memory.read s.bs i)
        ∧ ∀ i, i < s.nrec.toNat → a.records[i]? = Memory.read s.recs i)
    ∧ (¬ s.runComplete → s.asset m = none
        ∧ ∃ r, exec .rdstat s = .next { s with output := s.output ++ [r] } ∧ RunReport.ofResponse r = none)

/-- R143, R172, R173, R190: in any state, the commands of a conversion run all answer `OK`, provided the stores have
room for the range's glyphs and every `1 - top` fits; they leave a complete run with one record for each code point
of the range that the rasteriser did not fail on, and the asset has the run's depth, range and line height. -/
def Obligations.ConversionRunBuildsTheAsset : Prop :=
  ∀ (s : State) (n : RunInputs) (e : Rasteriser) (d : Depth) (is : List Instr),
    Depth.ofNumber n.depth = some d → n.conversion (some e) = .ok is →
    (((n.glyphs e d).filterMap id).map fun g => packedLength d.bits (g.1.width * g.1.height)).sum
      ≤ Config.params.bsCap →
    (n.recorded e d).length ≤ Config.params.recCap →
    (∀ g ∈ (n.glyphs e d).filterMap id, -32766 ≤ g.2.topBearing) →
      ∃ t a, execAll is s = .next t ∧ t.runComplete ∧ (∀ r ∈ t.output.drop s.output.length, r.status = .ok)
        ∧ t.nrec.toNat = (n.recorded e d).length ∧ t.asset (n.hostPart e) = some a ∧ a.depth = d
        ∧ a.records.length = (n.recorded e d).length
        ∧ a.bitstream.length
            = (((n.glyphs e d).filterMap id).map fun g => packedLength d.bits (g.1.width * g.1.height)).sum
        ∧ a.first = n.first ∧ a.last = n.last ∧ a.yAdvance = e.lineHeight n.fontSize

/-- R135, R136, R139, R140, R164, R172: under the same premises, the recorded code points are those of the range that
the rasteriser did not fail on, ascending, and record i is that of the i-th of them: its glyph's width, height, advance
and left bearing, `1 - top`, the packed length of all the glyphs before it as its offset, and at that offset the
glyph's samples in the layout of R55. -/
def Obligations.ConversionRecordsHoldTheGlyphs : Prop :=
  ∀ (s : State) (n : RunInputs) (e : Rasteriser) (d : Depth) (is : List Instr),
    Depth.ofNumber n.depth = some d → n.conversion (some e) = .ok is →
    (((n.glyphs e d).filterMap id).map fun g => packedLength d.bits (g.1.width * g.1.height)).sum
      ≤ Config.params.bsCap →
    (n.recorded e d).length ≤ Config.params.recCap →
    (∀ g ∈ (n.glyphs e d).filterMap id, -32766 ≤ g.2.topBearing) →
      (∀ c, c ∈ n.recorded e d ↔ n.first ≤ c ∧ c ≤ n.last ∧ (e.glyph n.fontSize d c).isSome = true)
      ∧ (n.recorded e d).Pairwise (· < ·)
      ∧ ∃ t a, execAll is s = .next t ∧ t.asset (n.hostPart e) = some a
        ∧ a.records.length = (n.recorded e d).length
        ∧ ∀ i c m q, (n.recorded e d)[i]? = some c → e.glyph n.fontSize d c = some (m, q) →
            ∃ r xs, a.records[i]? = some r ∧ m.samples d = some xs
              ∧ r.width.toNat = m.width ∧ r.height.toNat = m.height ∧ r.xAdvance.toInt = q.advance
              ∧ r.xOffset.toInt = q.leftBearing ∧ r.yOffset.toInt = 1 - q.topBearing
              ∧ r.offset.toNat = ((((n.glyphs e d).filterMap id).take i).map fun g =>
                  packedLength d.bits (g.1.width * g.1.height)).sum
              ∧ ∀ j, j < packedLength d.bits (m.width * m.height) →
                  a.bitstream[r.offset.toNat + j]? = some (unitByte d xs j)
end

