-- ==== Sys2Proof/Machine/AtParams.lean ====
section
/-! DEFINITION. The step function with the capacities as arguments, as R42 has them: "parameters of the step function".
`Sys2Proof.Machine.step` is this one at `Config.params`, about which nothing but R6's ranges is known; here the
capacities can be given, as the programs of 95_test_vectors.md give them. -/

namespace Sys2Proof.Machine

/-- A decoded command executed at given capacities (R4, R42). -/
def execAt (p : Params) (i : Instr) (s : State) : Host.Outcome State Fault Refusal :=
  match i with
  | .cfg d => execCfg d s
  | .enc x => encAt p x s
  | .commit => commitAt p s
  | .seek off => execSeek off s
  | .dec => execDec s
  | .gbegin w h => gbeginAt p w h s
  | .gend adv left top => gendAt p adv left top s
  | .rdrec idx => execRdrec idx s
  | .rdbs addr => execRdbs addr s
  | .rdstat => execRdstat s

/-- One step at given capacities (R42). -/
def stepAt (p : Params) (s : State) : Host.Outcome State Fault Refusal := serveHost (execAt p) s

end Sys2Proof.Machine
end

