-- ==== Sys2Proof/Laws/State.lean ====
section
/-! SUPPORT. What each named update of the state leaves in each field: one lemma per field per update, so that no later
proof unfolds a record update. -/

namespace Sys2Proof.Machine

variable (s : State)

/-! ### `State.answer` -/

@[simp] theorem State.answer_depth (st : Status) (v : BitVec 128) : (s.answer st v).depth = s.depth := rfl
@[simp] theorem State.answer_acc (st : Status) (v : BitVec 128) : (s.answer st v).acc = s.acc := rfl
@[simp] theorem State.answer_cur (st : Status) (v : BitVec 128) : (s.answer st v).cur = s.cur := rfl
@[simp] theorem State.answer_len (st : Status) (v : BitVec 128) : (s.answer st v).len = s.len := rfl
@[simp] theorem State.answer_bs (st : Status) (v : BitVec 128) : (s.answer st v).bs = s.bs := rfl
@[simp] theorem State.answer_uvalid (st : Status) (v : BitVec 128) : (s.answer st v).uvalid = s.uvalid := rfl
@[simp] theorem State.answer_uptr (st : Status) (v : BitVec 128) : (s.answer st v).uptr = s.uptr := rfl
@[simp] theorem State.answer_ucur (st : Status) (v : BitVec 128) : (s.answer st v).ucur = s.ucur := rfl
@[simp] theorem State.answer_gopen (st : Status) (v : BitVec 128) : (s.answer st v).gopen = s.gopen := rfl
@[simp] theorem State.answer_gOff (st : Status) (v : BitVec 128) : (s.answer st v).gOff = s.gOff := rfl
@[simp] theorem State.answer_gW (st : Status) (v : BitVec 128) : (s.answer st v).gW = s.gW := rfl
@[simp] theorem State.answer_gH (st : Status) (v : BitVec 128) : (s.answer st v).gH = s.gH := rfl
@[simp] theorem State.answer_gCnt (st : Status) (v : BitVec 128) : (s.answer st v).gCnt = s.gCnt := rfl
@[simp] theorem State.answer_nrec (st : Status) (v : BitVec 128) : (s.answer st v).nrec = s.nrec := rfl
@[simp] theorem State.answer_recs (st : Status) (v : BitVec 128) : (s.answer st v).recs = s.recs := rfl
@[simp] theorem State.answer_fault (st : Status) (v : BitVec 128) : (s.answer st v).fault = s.fault := rfl
@[simp] theorem State.answer_input (st : Status) (v : BitVec 128) : (s.answer st v).input = s.input := rfl
@[simp] theorem State.answer_output (st : Status) (v : BitVec 128) : (s.answer st v).output = s.output ++ [⟨st, v⟩] := rfl

/-! ### `State.recordFault` -/

@[simp] theorem State.recordFault_depth (c : Status) : (s.recordFault c).depth = s.depth := rfl
@[simp] theorem State.recordFault_acc (c : Status) : (s.recordFault c).acc = s.acc := rfl
@[simp] theorem State.recordFault_cur (c : Status) : (s.recordFault c).cur = s.cur := rfl
@[simp] theorem State.recordFault_len (c : Status) : (s.recordFault c).len = s.len := rfl
@[simp] theorem State.recordFault_bs (c : Status) : (s.recordFault c).bs = s.bs := rfl
@[simp] theorem State.recordFault_uvalid (c : Status) : (s.recordFault c).uvalid = s.uvalid := rfl
@[simp] theorem State.recordFault_uptr (c : Status) : (s.recordFault c).uptr = s.uptr := rfl
@[simp] theorem State.recordFault_ucur (c : Status) : (s.recordFault c).ucur = s.ucur := rfl
@[simp] theorem State.recordFault_gopen (c : Status) : (s.recordFault c).gopen = s.gopen := rfl
@[simp] theorem State.recordFault_gOff (c : Status) : (s.recordFault c).gOff = s.gOff := rfl
@[simp] theorem State.recordFault_gW (c : Status) : (s.recordFault c).gW = s.gW := rfl
@[simp] theorem State.recordFault_gH (c : Status) : (s.recordFault c).gH = s.gH := rfl
@[simp] theorem State.recordFault_gCnt (c : Status) : (s.recordFault c).gCnt = s.gCnt := rfl
@[simp] theorem State.recordFault_nrec (c : Status) : (s.recordFault c).nrec = s.nrec := rfl
@[simp] theorem State.recordFault_recs (c : Status) : (s.recordFault c).recs = s.recs := rfl
@[simp] theorem State.recordFault_fault (c : Status) : (s.recordFault c).fault = if s.isLocked then s.fault else c := rfl
@[simp] theorem State.recordFault_input (c : Status) : (s.recordFault c).input = s.input := rfl
@[simp] theorem State.recordFault_output (c : Status) : (s.recordFault c).output = s.output := rfl

/-! ### `State.startRun` -/

@[simp] theorem State.startRun_depth (d : Depth) : (s.startRun d).depth = .configured d := rfl
@[simp] theorem State.startRun_acc (d : Depth) : (s.startRun d).acc = 0#8 := rfl
@[simp] theorem State.startRun_cur (d : Depth) : (s.startRun d).cur = 0#4 := rfl
@[simp] theorem State.startRun_len (d : Depth) : (s.startRun d).len = 0#32 := rfl
@[simp] theorem State.startRun_bs (d : Depth) : (s.startRun d).bs = [] := rfl
@[simp] theorem State.startRun_uvalid (d : Depth) : (s.startRun d).uvalid = false := rfl
@[simp] theorem State.startRun_uptr (d : Depth) : (s.startRun d).uptr = 0#32 := rfl
@[simp] theorem State.startRun_ucur (d : Depth) : (s.startRun d).ucur = 0#4 := rfl
@[simp] theorem State.startRun_gopen (d : Depth) : (s.startRun d).gopen = false := rfl
@[simp] theorem State.startRun_gOff (d : Depth) : (s.startRun d).gOff = 0#32 := rfl
@[simp] theorem State.startRun_gW (d : Depth) : (s.startRun d).gW = 0#16 := rfl
@[simp] theorem State.startRun_gH (d : Depth) : (s.startRun d).gH = 0#16 := rfl
@[simp] theorem State.startRun_gCnt (d : Depth) : (s.startRun d).gCnt = 0#32 := rfl
@[simp] theorem State.startRun_nrec (d : Depth) : (s.startRun d).nrec = 0#16 := rfl
@[simp] theorem State.startRun_recs (d : Depth) : (s.startRun d).recs = [] := rfl
@[simp] theorem State.startRun_fault (d : Depth) : (s.startRun d).fault = .ok := rfl
@[simp] theorem State.startRun_input (d : Depth) : (s.startRun d).input = s.input := rfl
@[simp] theorem State.startRun_output (d : Depth) : (s.startRun d).output = s.output := rfl

/-! ### `State.hostReset` -/

@[simp] theorem State.hostReset_depth : (s.hostReset).depth = .notConfigured := rfl
@[simp] theorem State.hostReset_acc : (s.hostReset).acc = 0#8 := rfl
@[simp] theorem State.hostReset_cur : (s.hostReset).cur = 0#4 := rfl
@[simp] theorem State.hostReset_len : (s.hostReset).len = 0#32 := rfl
@[simp] theorem State.hostReset_bs : (s.hostReset).bs = [] := rfl
@[simp] theorem State.hostReset_uvalid : (s.hostReset).uvalid = false := rfl
@[simp] theorem State.hostReset_uptr : (s.hostReset).uptr = 0#32 := rfl
@[simp] theorem State.hostReset_ucur : (s.hostReset).ucur = 0#4 := rfl
@[simp] theorem State.hostReset_gopen : (s.hostReset).gopen = false := rfl
@[simp] theorem State.hostReset_gOff : (s.hostReset).gOff = 0#32 := rfl
@[simp] theorem State.hostReset_gW : (s.hostReset).gW = 0#16 := rfl
@[simp] theorem State.hostReset_gH : (s.hostReset).gH = 0#16 := rfl
@[simp] theorem State.hostReset_gCnt : (s.hostReset).gCnt = 0#32 := rfl
@[simp] theorem State.hostReset_nrec : (s.hostReset).nrec = 0#16 := rfl
@[simp] theorem State.hostReset_recs : (s.hostReset).recs = [] := rfl
@[simp] theorem State.hostReset_fault : (s.hostReset).fault = .ok := rfl
@[simp] theorem State.hostReset_input : (s.hostReset).input = s.input := rfl
@[simp] theorem State.hostReset_output : (s.hostReset).output = s.output := rfl

/-! ### `State.appendByte` -/

@[simp] theorem State.appendByte_depth (v : BitVec 8) : (s.appendByte v).depth = s.depth := rfl
@[simp] theorem State.appendByte_acc (v : BitVec 8) : (s.appendByte v).acc = s.acc := rfl
@[simp] theorem State.appendByte_cur (v : BitVec 8) : (s.appendByte v).cur = s.cur := rfl
@[simp] theorem State.appendByte_len (v : BitVec 8) : (s.appendByte v).len = s.len + 1#32 := rfl
@[simp] theorem State.appendByte_bs (v : BitVec 8) : (s.appendByte v).bs = Memory.write s.bs s.len.toNat v := rfl
@[simp] theorem State.appendByte_uvalid (v : BitVec 8) : (s.appendByte v).uvalid = s.uvalid := rfl
@[simp] theorem State.appendByte_uptr (v : BitVec 8) : (s.appendByte v).uptr = s.uptr := rfl
@[simp] theorem State.appendByte_ucur (v : BitVec 8) : (s.appendByte v).ucur = s.ucur := rfl
@[simp] theorem State.appendByte_gopen (v : BitVec 8) : (s.appendByte v).gopen = s.gopen := rfl
@[simp] theorem State.appendByte_gOff (v : BitVec 8) : (s.appendByte v).gOff = s.gOff := rfl
@[simp] theorem State.appendByte_gW (v : BitVec 8) : (s.appendByte v).gW = s.gW := rfl
@[simp] theorem State.appendByte_gH (v : BitVec 8) : (s.appendByte v).gH = s.gH := rfl
@[simp] theorem State.appendByte_gCnt (v : BitVec 8) : (s.appendByte v).gCnt = s.gCnt := rfl
@[simp] theorem State.appendByte_nrec (v : BitVec 8) : (s.appendByte v).nrec = s.nrec := rfl
@[simp] theorem State.appendByte_recs (v : BitVec 8) : (s.appendByte v).recs = s.recs := rfl
@[simp] theorem State.appendByte_fault (v : BitVec 8) : (s.appendByte v).fault = s.fault := rfl
@[simp] theorem State.appendByte_input (v : BitVec 8) : (s.appendByte v).input = s.input := rfl
@[simp] theorem State.appendByte_output (v : BitVec 8) : (s.appendByte v).output = s.output := rfl

/-! ### `State.emptyAcc` -/

@[simp] theorem State.emptyAcc_depth : (s.emptyAcc).depth = s.depth := rfl
@[simp] theorem State.emptyAcc_acc : (s.emptyAcc).acc = 0#8 := rfl
@[simp] theorem State.emptyAcc_cur : (s.emptyAcc).cur = 0#4 := rfl
@[simp] theorem State.emptyAcc_len : (s.emptyAcc).len = s.len := rfl
@[simp] theorem State.emptyAcc_bs : (s.emptyAcc).bs = s.bs := rfl
@[simp] theorem State.emptyAcc_uvalid : (s.emptyAcc).uvalid = s.uvalid := rfl
@[simp] theorem State.emptyAcc_uptr : (s.emptyAcc).uptr = s.uptr := rfl
@[simp] theorem State.emptyAcc_ucur : (s.emptyAcc).ucur = s.ucur := rfl
@[simp] theorem State.emptyAcc_gopen : (s.emptyAcc).gopen = s.gopen := rfl
@[simp] theorem State.emptyAcc_gOff : (s.emptyAcc).gOff = s.gOff := rfl
@[simp] theorem State.emptyAcc_gW : (s.emptyAcc).gW = s.gW := rfl
@[simp] theorem State.emptyAcc_gH : (s.emptyAcc).gH = s.gH := rfl
@[simp] theorem State.emptyAcc_gCnt : (s.emptyAcc).gCnt = s.gCnt := rfl
@[simp] theorem State.emptyAcc_nrec : (s.emptyAcc).nrec = s.nrec := rfl
@[simp] theorem State.emptyAcc_recs : (s.emptyAcc).recs = s.recs := rfl
@[simp] theorem State.emptyAcc_fault : (s.emptyAcc).fault = s.fault := rfl
@[simp] theorem State.emptyAcc_input : (s.emptyAcc).input = s.input := rfl
@[simp] theorem State.emptyAcc_output : (s.emptyAcc).output = s.output := rfl

/-! ### `State.countSample` -/

@[simp] theorem State.countSample_depth : (s.countSample).depth = s.depth := rfl
@[simp] theorem State.countSample_acc : (s.countSample).acc = s.acc := rfl
@[simp] theorem State.countSample_cur : (s.countSample).cur = s.cur := rfl
@[simp] theorem State.countSample_len : (s.countSample).len = s.len := rfl
@[simp] theorem State.countSample_bs : (s.countSample).bs = s.bs := rfl
@[simp] theorem State.countSample_uvalid : (s.countSample).uvalid = s.uvalid := rfl
@[simp] theorem State.countSample_uptr : (s.countSample).uptr = s.uptr := rfl
@[simp] theorem State.countSample_ucur : (s.countSample).ucur = s.ucur := rfl
@[simp] theorem State.countSample_gopen : (s.countSample).gopen = s.gopen := rfl
@[simp] theorem State.countSample_gOff : (s.countSample).gOff = s.gOff := rfl
@[simp] theorem State.countSample_gW : (s.countSample).gW = s.gW := rfl
@[simp] theorem State.countSample_gH : (s.countSample).gH = s.gH := rfl
@[simp] theorem State.countSample_gCnt : (s.countSample).gCnt = if s.gopen then s.gCnt + 1#32 else s.gCnt := rfl
@[simp] theorem State.countSample_nrec : (s.countSample).nrec = s.nrec := rfl
@[simp] theorem State.countSample_recs : (s.countSample).recs = s.recs := rfl
@[simp] theorem State.countSample_fault : (s.countSample).fault = s.fault := rfl
@[simp] theorem State.countSample_input : (s.countSample).input = s.input := rfl
@[simp] theorem State.countSample_output : (s.countSample).output = s.output := rfl

/-! ### `State.seekTo` -/

@[simp] theorem State.seekTo_depth (off : BitVec 32) : (s.seekTo off).depth = s.depth := rfl
@[simp] theorem State.seekTo_acc (off : BitVec 32) : (s.seekTo off).acc = s.acc := rfl
@[simp] theorem State.seekTo_cur (off : BitVec 32) : (s.seekTo off).cur = s.cur := rfl
@[simp] theorem State.seekTo_len (off : BitVec 32) : (s.seekTo off).len = s.len := rfl
@[simp] theorem State.seekTo_bs (off : BitVec 32) : (s.seekTo off).bs = s.bs := rfl
@[simp] theorem State.seekTo_uvalid (off : BitVec 32) : (s.seekTo off).uvalid = true := rfl
@[simp] theorem State.seekTo_uptr (off : BitVec 32) : (s.seekTo off).uptr = off := rfl
@[simp] theorem State.seekTo_ucur (off : BitVec 32) : (s.seekTo off).ucur = 0#4 := rfl
@[simp] theorem State.seekTo_gopen (off : BitVec 32) : (s.seekTo off).gopen = s.gopen := rfl
@[simp] theorem State.seekTo_gOff (off : BitVec 32) : (s.seekTo off).gOff = s.gOff := rfl
@[simp] theorem State.seekTo_gW (off : BitVec 32) : (s.seekTo off).gW = s.gW := rfl
@[simp] theorem State.seekTo_gH (off : BitVec 32) : (s.seekTo off).gH = s.gH := rfl
@[simp] theorem State.seekTo_gCnt (off : BitVec 32) : (s.seekTo off).gCnt = s.gCnt := rfl
@[simp] theorem State.seekTo_nrec (off : BitVec 32) : (s.seekTo off).nrec = s.nrec := rfl
@[simp] theorem State.seekTo_recs (off : BitVec 32) : (s.seekTo off).recs = s.recs := rfl
@[simp] theorem State.seekTo_fault (off : BitVec 32) : (s.seekTo off).fault = s.fault := rfl
@[simp] theorem State.seekTo_input (off : BitVec 32) : (s.seekTo off).input = s.input := rfl
@[simp] theorem State.seekTo_output (off : BitVec 32) : (s.seekTo off).output = s.output := rfl

/-! ### `State.openGlyph` -/

@[simp] theorem State.openGlyph_depth (w h : BitVec 16) : (s.openGlyph w h).depth = s.depth := rfl
@[simp] theorem State.openGlyph_acc (w h : BitVec 16) : (s.openGlyph w h).acc = s.acc := rfl
@[simp] theorem State.openGlyph_cur (w h : BitVec 16) : (s.openGlyph w h).cur = s.cur := rfl
@[simp] theorem State.openGlyph_len (w h : BitVec 16) : (s.openGlyph w h).len = s.len := rfl
@[simp] theorem State.openGlyph_bs (w h : BitVec 16) : (s.openGlyph w h).bs = s.bs := rfl
@[simp] theorem State.openGlyph_uvalid (w h : BitVec 16) : (s.openGlyph w h).uvalid = s.uvalid := rfl
@[simp] theorem State.openGlyph_uptr (w h : BitVec 16) : (s.openGlyph w h).uptr = s.uptr := rfl
@[simp] theorem State.openGlyph_ucur (w h : BitVec 16) : (s.openGlyph w h).ucur = s.ucur := rfl
@[simp] theorem State.openGlyph_gopen (w h : BitVec 16) : (s.openGlyph w h).gopen = true := rfl
@[simp] theorem State.openGlyph_gOff (w h : BitVec 16) : (s.openGlyph w h).gOff = s.len := rfl
@[simp] theorem State.openGlyph_gW (w h : BitVec 16) : (s.openGlyph w h).gW = w := rfl
@[simp] theorem State.openGlyph_gH (w h : BitVec 16) : (s.openGlyph w h).gH = h := rfl
@[simp] theorem State.openGlyph_gCnt (w h : BitVec 16) : (s.openGlyph w h).gCnt = 0#32 := rfl
@[simp] theorem State.openGlyph_nrec (w h : BitVec 16) : (s.openGlyph w h).nrec = s.nrec := rfl
@[simp] theorem State.openGlyph_recs (w h : BitVec 16) : (s.openGlyph w h).recs = s.recs := rfl
@[simp] theorem State.openGlyph_fault (w h : BitVec 16) : (s.openGlyph w h).fault = s.fault := rfl
@[simp] theorem State.openGlyph_input (w h : BitVec 16) : (s.openGlyph w h).input = s.input := rfl
@[simp] theorem State.openGlyph_output (w h : BitVec 16) : (s.openGlyph w h).output = s.output := rfl

/-! ### `State.appendRecord` -/

@[simp] theorem State.appendRecord_depth (r : Record) : (s.appendRecord r).depth = s.depth := rfl
@[simp] theorem State.appendRecord_acc (r : Record) : (s.appendRecord r).acc = s.acc := rfl
@[simp] theorem State.appendRecord_cur (r : Record) : (s.appendRecord r).cur = s.cur := rfl
@[simp] theorem State.appendRecord_len (r : Record) : (s.appendRecord r).len = s.len := rfl
@[simp] theorem State.appendRecord_bs (r : Record) : (s.appendRecord r).bs = s.bs := rfl
@[simp] theorem State.appendRecord_uvalid (r : Record) : (s.appendRecord r).uvalid = s.uvalid := rfl
@[simp] theorem State.appendRecord_uptr (r : Record) : (s.appendRecord r).uptr = s.uptr := rfl
@[simp] theorem State.appendRecord_ucur (r : Record) : (s.appendRecord r).ucur = s.ucur := rfl
@[simp] theorem State.appendRecord_gopen (r : Record) : (s.appendRecord r).gopen = false := rfl
@[simp] theorem State.appendRecord_gOff (r : Record) : (s.appendRecord r).gOff = s.gOff := rfl
@[simp] theorem State.appendRecord_gW (r : Record) : (s.appendRecord r).gW = s.gW := rfl
@[simp] theorem State.appendRecord_gH (r : Record) : (s.appendRecord r).gH = s.gH := rfl
@[simp] theorem State.appendRecord_gCnt (r : Record) : (s.appendRecord r).gCnt = s.gCnt := rfl
@[simp] theorem State.appendRecord_nrec (r : Record) : (s.appendRecord r).nrec = s.nrec + 1#16 := rfl
@[simp] theorem State.appendRecord_recs (r : Record) : (s.appendRecord r).recs = Memory.write s.recs s.nrec.toNat r := rfl
@[simp] theorem State.appendRecord_fault (r : Record) : (s.appendRecord r).fault = s.fault := rfl
@[simp] theorem State.appendRecord_input (r : Record) : (s.appendRecord r).input = s.input := rfl
@[simp] theorem State.appendRecord_output (r : Record) : (s.appendRecord r).output = s.output := rfl

/-! ### `State.takeAction` -/

@[simp] theorem State.takeAction_depth : (s.takeAction).depth = s.depth := rfl
@[simp] theorem State.takeAction_acc : (s.takeAction).acc = s.acc := rfl
@[simp] theorem State.takeAction_cur : (s.takeAction).cur = s.cur := rfl
@[simp] theorem State.takeAction_len : (s.takeAction).len = s.len := rfl
@[simp] theorem State.takeAction_bs : (s.takeAction).bs = s.bs := rfl
@[simp] theorem State.takeAction_uvalid : (s.takeAction).uvalid = s.uvalid := rfl
@[simp] theorem State.takeAction_uptr : (s.takeAction).uptr = s.uptr := rfl
@[simp] theorem State.takeAction_ucur : (s.takeAction).ucur = s.ucur := rfl
@[simp] theorem State.takeAction_gopen : (s.takeAction).gopen = s.gopen := rfl
@[simp] theorem State.takeAction_gOff : (s.takeAction).gOff = s.gOff := rfl
@[simp] theorem State.takeAction_gW : (s.takeAction).gW = s.gW := rfl
@[simp] theorem State.takeAction_gH : (s.takeAction).gH = s.gH := rfl
@[simp] theorem State.takeAction_gCnt : (s.takeAction).gCnt = s.gCnt := rfl
@[simp] theorem State.takeAction_nrec : (s.takeAction).nrec = s.nrec := rfl
@[simp] theorem State.takeAction_recs : (s.takeAction).recs = s.recs := rfl
@[simp] theorem State.takeAction_fault : (s.takeAction).fault = s.fault := rfl
@[simp] theorem State.takeAction_input : (s.takeAction).input = s.input.tail := rfl
@[simp] theorem State.takeAction_output : (s.takeAction).output = s.output := rfl

/-! ### `State.present` -/

@[simp] theorem State.present_depth (w : BitVec 64) : (s.present w).depth = s.depth := rfl
@[simp] theorem State.present_acc (w : BitVec 64) : (s.present w).acc = s.acc := rfl
@[simp] theorem State.present_cur (w : BitVec 64) : (s.present w).cur = s.cur := rfl
@[simp] theorem State.present_len (w : BitVec 64) : (s.present w).len = s.len := rfl
@[simp] theorem State.present_bs (w : BitVec 64) : (s.present w).bs = s.bs := rfl
@[simp] theorem State.present_uvalid (w : BitVec 64) : (s.present w).uvalid = s.uvalid := rfl
@[simp] theorem State.present_uptr (w : BitVec 64) : (s.present w).uptr = s.uptr := rfl
@[simp] theorem State.present_ucur (w : BitVec 64) : (s.present w).ucur = s.ucur := rfl
@[simp] theorem State.present_gopen (w : BitVec 64) : (s.present w).gopen = s.gopen := rfl
@[simp] theorem State.present_gOff (w : BitVec 64) : (s.present w).gOff = s.gOff := rfl
@[simp] theorem State.present_gW (w : BitVec 64) : (s.present w).gW = s.gW := rfl
@[simp] theorem State.present_gH (w : BitVec 64) : (s.present w).gH = s.gH := rfl
@[simp] theorem State.present_gCnt (w : BitVec 64) : (s.present w).gCnt = s.gCnt := rfl
@[simp] theorem State.present_nrec (w : BitVec 64) : (s.present w).nrec = s.nrec := rfl
@[simp] theorem State.present_recs (w : BitVec 64) : (s.present w).recs = s.recs := rfl
@[simp] theorem State.present_fault (w : BitVec 64) : (s.present w).fault = s.fault := rfl
@[simp] theorem State.present_input (w : BitVec 64) : (s.present w).input = .command w :: s.input := rfl
@[simp] theorem State.present_output (w : BitVec 64) : (s.present w).output = s.output := rfl

/-! ### `State.flush` -/

@[simp] theorem State.flush_depth : (s.flush).depth = s.depth := by
  unfold State.flush; split <;> rfl
@[simp] theorem State.flush_acc : (s.flush).acc = if s.bytePending then 0#8 else s.acc := by
  unfold State.flush; split <;> simp_all
@[simp] theorem State.flush_cur : (s.flush).cur = 0#4 := by
  unfold State.flush; split <;> simp_all
@[simp] theorem State.flush_len : (s.flush).len = if s.bytePending then s.len + 1#32 else s.len := by
  unfold State.flush; split <;> simp_all
@[simp] theorem State.flush_bs : (s.flush).bs = if s.bytePending then Memory.write s.bs s.len.toNat s.acc else s.bs := by
  unfold State.flush; split <;> simp_all
@[simp] theorem State.flush_uvalid : (s.flush).uvalid = s.uvalid := by
  unfold State.flush; split <;> rfl
@[simp] theorem State.flush_uptr : (s.flush).uptr = s.uptr := by
  unfold State.flush; split <;> rfl
@[simp] theorem State.flush_ucur : (s.flush).ucur = s.ucur := by
  unfold State.flush; split <;> rfl
@[simp] theorem State.flush_gopen : (s.flush).gopen = s.gopen := by
  unfold State.flush; split <;> rfl
@[simp] theorem State.flush_gOff : (s.flush).gOff = s.gOff := by
  unfold State.flush; split <;> rfl
@[simp] theorem State.flush_gW : (s.flush).gW = s.gW := by
  unfold State.flush; split <;> rfl
@[simp] theorem State.flush_gH : (s.flush).gH = s.gH := by
  unfold State.flush; split <;> rfl
@[simp] theorem State.flush_gCnt : (s.flush).gCnt = s.gCnt := by
  unfold State.flush; split <;> rfl
@[simp] theorem State.flush_nrec : (s.flush).nrec = s.nrec := by
  unfold State.flush; split <;> rfl
@[simp] theorem State.flush_recs : (s.flush).recs = s.recs := by
  unfold State.flush; split <;> rfl
@[simp] theorem State.flush_fault : (s.flush).fault = s.fault := by
  unfold State.flush; split <;> rfl
@[simp] theorem State.flush_input : (s.flush).input = s.input := by
  unfold State.flush; split <;> rfl
@[simp] theorem State.flush_output : (s.flush).output = s.output := by
  unfold State.flush; split <;> rfl

/-! ### `State.packSample` -/

@[simp] theorem State.packSample_depth (d : Depth) (x : BitVec 8) : (s.packSample d x).depth = s.depth := by
  unfold State.packSample; split <;> rfl
@[simp] theorem State.packSample_acc (d : Depth) (x : BitVec 8) : (s.packSample d x).acc = if 8 ≤ s.cur.toNat + d.bits then 0#8 else s.acc ||| placeSample d x s.cur.toNat := by
  unfold State.packSample; split <;> simp_all
@[simp] theorem State.packSample_cur (d : Depth) (x : BitVec 8) : (s.packSample d x).cur = if 8 ≤ s.cur.toNat + d.bits then 0#4 else s.cur + BitVec.ofNat 4 d.bits := by
  unfold State.packSample; split <;> simp_all
@[simp] theorem State.packSample_len (d : Depth) (x : BitVec 8) : (s.packSample d x).len = if 8 ≤ s.cur.toNat + d.bits then s.len + 1#32 else s.len := by
  unfold State.packSample; split <;> simp_all
@[simp] theorem State.packSample_bs (d : Depth) (x : BitVec 8) : (s.packSample d x).bs = if 8 ≤ s.cur.toNat + d.bits then Memory.write s.bs s.len.toNat (s.acc ||| placeSample d x s.cur.toNat) else s.bs := by
  unfold State.packSample; split <;> simp_all
@[simp] theorem State.packSample_uvalid (d : Depth) (x : BitVec 8) : (s.packSample d x).uvalid = s.uvalid := by
  unfold State.packSample; split <;> rfl
@[simp] theorem State.packSample_uptr (d : Depth) (x : BitVec 8) : (s.packSample d x).uptr = s.uptr := by
  unfold State.packSample; split <;> rfl
@[simp] theorem State.packSample_ucur (d : Depth) (x : BitVec 8) : (s.packSample d x).ucur = s.ucur := by
  unfold State.packSample; split <;> rfl
@[simp] theorem State.packSample_gopen (d : Depth) (x : BitVec 8) : (s.packSample d x).gopen = s.gopen := by
  unfold State.packSample; split <;> rfl
@[simp] theorem State.packSample_gOff (d : Depth) (x : BitVec 8) : (s.packSample d x).gOff = s.gOff := by
  unfold State.packSample; split <;> rfl
@[simp] theorem State.packSample_gW (d : Depth) (x : BitVec 8) : (s.packSample d x).gW = s.gW := by
  unfold State.packSample; split <;> rfl
@[simp] theorem State.packSample_gH (d : Depth) (x : BitVec 8) : (s.packSample d x).gH = s.gH := by
  unfold State.packSample; split <;> rfl
@[simp] theorem State.packSample_gCnt (d : Depth) (x : BitVec 8) : (s.packSample d x).gCnt = if s.gopen then s.gCnt + 1#32 else s.gCnt := by
  unfold State.packSample; split <;> simp_all
@[simp] theorem State.packSample_nrec (d : Depth) (x : BitVec 8) : (s.packSample d x).nrec = s.nrec := by
  unfold State.packSample; split <;> rfl
@[simp] theorem State.packSample_recs (d : Depth) (x : BitVec 8) : (s.packSample d x).recs = s.recs := by
  unfold State.packSample; split <;> rfl
@[simp] theorem State.packSample_fault (d : Depth) (x : BitVec 8) : (s.packSample d x).fault = s.fault := by
  unfold State.packSample; split <;> rfl
@[simp] theorem State.packSample_input (d : Depth) (x : BitVec 8) : (s.packSample d x).input = s.input := by
  unfold State.packSample; split <;> rfl
@[simp] theorem State.packSample_output (d : Depth) (x : BitVec 8) : (s.packSample d x).output = s.output := by
  unfold State.packSample; split <;> rfl

/-! ### `State.nextLane` -/

@[simp] theorem State.nextLane_depth (d : Depth) : (s.nextLane d).depth = s.depth := by
  unfold State.nextLane; split <;> rfl
@[simp] theorem State.nextLane_acc (d : Depth) : (s.nextLane d).acc = s.acc := by
  unfold State.nextLane; split <;> rfl
@[simp] theorem State.nextLane_cur (d : Depth) : (s.nextLane d).cur = s.cur := by
  unfold State.nextLane; split <;> rfl
@[simp] theorem State.nextLane_len (d : Depth) : (s.nextLane d).len = s.len := by
  unfold State.nextLane; split <;> rfl
@[simp] theorem State.nextLane_bs (d : Depth) : (s.nextLane d).bs = s.bs := by
  unfold State.nextLane; split <;> rfl
@[simp] theorem State.nextLane_uvalid (d : Depth) : (s.nextLane d).uvalid = s.uvalid := by
  unfold State.nextLane; split <;> rfl
@[simp] theorem State.nextLane_uptr (d : Depth) : (s.nextLane d).uptr = if 8 ≤ s.ucur.toNat + d.bits then s.uptr + 1#32 else s.uptr := by
  unfold State.nextLane; split <;> simp_all
@[simp] theorem State.nextLane_ucur (d : Depth) : (s.nextLane d).ucur = if 8 ≤ s.ucur.toNat + d.bits then 0#4 else s.ucur + BitVec.ofNat 4 d.bits := by
  unfold State.nextLane; split <;> simp_all
@[simp] theorem State.nextLane_gopen (d : Depth) : (s.nextLane d).gopen = s.gopen := by
  unfold State.nextLane; split <;> rfl
@[simp] theorem State.nextLane_gOff (d : Depth) : (s.nextLane d).gOff = s.gOff := by
  unfold State.nextLane; split <;> rfl
@[simp] theorem State.nextLane_gW (d : Depth) : (s.nextLane d).gW = s.gW := by
  unfold State.nextLane; split <;> rfl
@[simp] theorem State.nextLane_gH (d : Depth) : (s.nextLane d).gH = s.gH := by
  unfold State.nextLane; split <;> rfl
@[simp] theorem State.nextLane_gCnt (d : Depth) : (s.nextLane d).gCnt = s.gCnt := by
  unfold State.nextLane; split <;> rfl
@[simp] theorem State.nextLane_nrec (d : Depth) : (s.nextLane d).nrec = s.nrec := by
  unfold State.nextLane; split <;> rfl
@[simp] theorem State.nextLane_recs (d : Depth) : (s.nextLane d).recs = s.recs := by
  unfold State.nextLane; split <;> rfl
@[simp] theorem State.nextLane_fault (d : Depth) : (s.nextLane d).fault = s.fault := by
  unfold State.nextLane; split <;> rfl
@[simp] theorem State.nextLane_input (d : Depth) : (s.nextLane d).input = s.input := by
  unfold State.nextLane; split <;> rfl
@[simp] theorem State.nextLane_output (d : Depth) : (s.nextLane d).output = s.output := by
  unfold State.nextLane; split <;> rfl

end Sys2Proof.Machine
end

