-- ==== Sys2Proof/Laws/Memory.lean ====
section
/-! SUPPORT. The stores: reading after writing, the canonical form, and stores whose cells are exactly those below a
length (R26, R35, R51 to R53). -/

namespace Sys2Proof.Machine

variable {α : Type}

@[simp] theorem Memory.read_nil (a : Nat) : Memory.read ([] : List (Nat × α)) a = none := rfl

/-- A cell just written reads as what was written. -/
@[simp] theorem Memory.read_write_same (m : List (Nat × α)) (a : Nat) (v : α) :
    Memory.read (Memory.write m a v) a = some v := by
  induction m with
  | nil => simp [Memory.write, Memory.read]
  | cons c m ih =>
    obtain ⟨k, u⟩ := c
    unfold Memory.write
    split
    · simp [Memory.read]
    · split
      · simp [Memory.read]
      · simp [Memory.read, ih, show ¬ k = a by omega]

/-- A write leaves every other cell of the store as it was. -/
theorem Memory.read_write_other (m : List (Nat × α)) {a b : Nat} (v : α) (h : b ≠ a) :
    Memory.read (Memory.write m a v) b = Memory.read m b := by
  induction m with
  | nil => simp [Memory.write, Memory.read, Memory.unlisted, h.symm]
  | cons c m ih =>
    obtain ⟨k, u⟩ := c
    unfold Memory.write
    split
    · simp [Memory.read, h.symm]
    · split
      · subst k; simp [Memory.read, h.symm]
      · simp [Memory.read, ih]

theorem Memory.mem_write_key {m : List (Nat × α)} {a : Nat} {v : α} {c : Nat × α}
    (h : c ∈ Memory.write m a v) : c.1 = a ∨ c ∈ m := by
  induction m with
  | nil => simp_all [Memory.write]
  | cons e m ih =>
    obtain ⟨k, u⟩ := e
    unfold Memory.write at h
    split at h
    · rcases List.mem_cons.mp h with rfl | h
      · exact .inl rfl
      · exact .inr h
    · split at h
      · rcases List.mem_cons.mp h with rfl | h
        · exact .inl rfl
        · exact .inr (List.mem_cons_of_mem _ h)
      · rcases List.mem_cons.mp h with rfl | h
        · exact .inr (by simp)
        · exact (ih h).imp_right (List.mem_cons_of_mem _)

/-- Writing keeps the canonical form. -/
theorem Memory.write_wf {m : List (Nat × α)} (a : Nat) (v : α) (h : Memory.wf m) :
    Memory.wf (Memory.write m a v) := by
  induction m with
  | nil => simp [Memory.wf, Memory.write]
  | cons e m ih =>
    obtain ⟨k, u⟩ := e
    obtain ⟨hk, hm⟩ := List.pairwise_cons.mp h
    unfold Memory.write
    split
    · rename_i hak
      refine List.pairwise_cons.mpr ⟨fun c hc => ?_, h⟩
      rcases List.mem_cons.mp hc with rfl | hc
      · exact hak
      · exact Nat.lt_trans hak (hk c hc)
    · split
      · subst k
        exact List.pairwise_cons.mpr ⟨hk, hm⟩
      · refine List.pairwise_cons.mpr ⟨fun c hc => ?_, ih hm⟩
        rcases Memory.mem_write_key hc with h1 | h1
        · rw [h1]; show k < a; omega
        · exact hk c h1

theorem Memory.nil_wf : Memory.wf ([] : List (Nat × α)) := List.Pairwise.nil

/-- Writing above every listed address puts the cell last. -/
theorem Memory.write_above {m : List (Nat × α)} {a : Nat} (v : α) (h : ∀ c ∈ m, c.1 < a) :
    Memory.write m a v = m ++ [(a, v)] := by
  induction m with
  | nil => rfl
  | cons e m ih =>
    obtain ⟨k, u⟩ := e
    have hk : k < a := h (k, u) (by simp)
    simp [Memory.write, show ¬ a < k by omega, show ¬ a = k by omega,
      ih fun c hc => h c (List.mem_cons_of_mem _ hc)]

/-! ### Stores whose cells are exactly those below n -/

theorem Memory.key_lt {m : List (Nat × α)} {n : Nat} (h : m.map Prod.fst = List.range n) {c : Nat × α}
    (hc : c ∈ m) : c.1 < n := by
  have : c.1 ∈ m.map Prod.fst := List.mem_map_of_mem hc
  rw [h] at this
  exact List.mem_range.mp this

/-- Appending at n: the new cell stands last (R52). -/
theorem Memory.write_append {m : List (Nat × α)} {n : Nat} (v : α) (h : m.map Prod.fst = List.range n) :
    Memory.write m n v = m ++ [(n, v)] :=
  Memory.write_above v fun _ hc => Memory.key_lt h hc

/-- Appending at n gives a store whose cells are exactly those below n + 1 (R52). -/
theorem Memory.cells_append {m : List (Nat × α)} {n : Nat} (v : α) (h : m.map Prod.fst = List.range n) :
    (Memory.write m n v).map Prod.fst = List.range (n + 1) := by
  rw [Memory.write_append v h, List.map_append, h, List.range_succ]
  rfl

/-- Such a store is in canonical form. -/
theorem Memory.cells_wf {m : List (Nat × α)} {n : Nat} (h : m.map Prod.fst = List.range n) : Memory.wf m := by
  have : (m.map Prod.fst).Pairwise (· < ·) := h ▸ List.pairwise_lt_range
  exact List.pairwise_map.mp this

theorem Memory.read_eq_none {m : List (Nat × α)} {a : Nat} (h : ∀ c ∈ m, c.1 ≠ a) : Memory.read m a = none := by
  induction m with
  | nil => rfl
  | cons e m ih =>
    obtain ⟨k, u⟩ := e
    have hk : ¬ k = a := h (k, u) (by simp)
    simp [Memory.read, hk, ih fun c hc => h c (List.mem_cons_of_mem _ hc)]

/-- No cell at or above n has a value (R51). -/
theorem Memory.read_above {m : List (Nat × α)} {n a : Nat} (h : m.map Prod.fst = List.range n) (ha : n ≤ a) :
    Memory.read m a = none :=
  Memory.read_eq_none fun _ hc => Nat.ne_of_lt (Nat.lt_of_lt_of_le (Memory.key_lt h hc) ha)

theorem Memory.read_append (m m' : List (Nat × α)) (a : Nat) :
    Memory.read (m ++ m') a = (Memory.read m a).or (Memory.read m' a) := by
  induction m with
  | nil => simp
  | cons e m ih =>
    obtain ⟨k, u⟩ := e
    by_cases hk : k = a <;> simp [Memory.read, hk, ih]

/-- Reading such a store is taking the value at a place of the list. -/
theorem Memory.read_eq_getElem {m : List (Nat × α)} {n : Nat} (h : m.map Prod.fst = List.range n) (a : Nat) :
    Memory.read m a = m[a]?.map Prod.snd := by
  induction n generalizing m with
  | zero => simp_all
  | succ n ih =>
    rw [List.range_succ] at h
    obtain ⟨m1, m2, rfl, h1, h2⟩ := List.map_eq_append_iff.mp h
    obtain ⟨⟨k, v⟩, m3, rfl, hk, h3⟩ := List.map_eq_cons_iff.mp h2
    obtain rfl := List.map_eq_nil_iff.mp h3
    have hlen : m1.length = n := by simpa using congrArg List.length h1
    change k = n at hk
    subst hk
    rw [Memory.read_append, ih h1, List.getElem?_append]
    by_cases ha : a < m1.length
    · simp [ha]
    · by_cases hak : a = k
      · subst hak
        simp [Memory.read, hlen]
      · have h1 : a - m1.length ≠ 0 := by omega
        simp [Memory.read, Memory.unlisted, ha, show ¬ k = a by omega]
        omega

/-- Every cell below n has a value (R51). -/
theorem Memory.read_below {m : List (Nat × α)} {n a : Nat} (h : m.map Prod.fst = List.range n) (ha : a < n) :
    ∃ v, Memory.read m a = some v := by
  have hl : m.length = n := by simpa using congrArg List.length h
  exact ⟨(m[a]'(by omega)).2, by rw [Memory.read_eq_getElem h, List.getElem?_eq_getElem (by omega)]; rfl⟩

/-- A cell that has a value lies below n. -/
theorem Memory.lt_of_read {m : List (Nat × α)} {n a : Nat} {v : α} (h : m.map Prod.fst = List.range n)
    (hr : Memory.read m a = some v) : a < n := by
  by_contra hc
  simp [Memory.read_above h (Nat.le_of_not_lt hc)] at hr

end Sys2Proof.Machine
end

