-- ==== Sys2Proof/Laws/Ops.lean ====
section
/-! SUPPORT. What each shared operation can do: the fault operation, the common checks, the values of depths. -/

namespace Sys2Proof

/-! ### Capacities -/

theorem Params.bsCap_pos (p : Params) : 1 ≤ p.bsCap := by
  have := p.bsShort.isLt; unfold Params.bsCap; omega

theorem Params.bsCap_le (p : Params) : p.bsCap ≤ 4294967295 := by unfold Params.bsCap; omega

theorem Params.recCap_pos (p : Params) : 1 ≤ p.recCap := by
  have := p.recShort.isLt; unfold Params.recCap; omega

theorem Params.recCap_le (p : Params) : p.recCap ≤ 65535 := by unfold Params.recCap; omega

@[simp] theorem Params.ofCaps_bsCap (b r : Nat) (hb : 1 ≤ b ∧ b ≤ 4294967295) (hr : 1 ≤ r ∧ r ≤ 65535) :
    (Params.ofCaps b r hb hr).bsCap = b := by
  unfold Params.bsCap Params.ofCaps; simp; omega

@[simp] theorem Params.ofCaps_recCap (b r : Nat) (hb : 1 ≤ b ∧ b ≤ 4294967295) (hr : 1 ≤ r ∧ r ≤ 65535) :
    (Params.ofCaps b r hb hr).recCap = r := by
  unfold Params.recCap Params.ofCaps; simp; omega

end Sys2Proof

namespace Sys2Proof.Machine

/-! ### Depths -/

theorem Depth.bits_pos (d : Depth) : 1 ≤ d.bits := by cases d <;> decide

theorem Depth.bits_le (d : Depth) : d.bits ≤ 8 := by cases d <;> decide

/-- "8 mod depth == 0" (R5). -/
theorem Depth.bits_dvd (d : Depth) : d.bits ∣ 8 := by cases d <;> decide

/-- A cursor at a lane leaves room for one more sample (R38). -/
theorem Depth.lane_room (d : Depth) {c : Nat} (h : d.bits ∣ c) (hc : c < 8) : c + d.bits ≤ 8 := by
  cases d <;> simp only [Depth.bits] at * <;> omega

theorem Depth.bits_toNat (d : Depth) : (BitVec.ofNat 4 d.bits).toNat = d.bits := by cases d <;> rfl

/-- The cursor moved past one lane, short of the byte's end. -/
theorem Depth.cursor_add (d : Depth) (c : BitVec 4) (h : c.toNat + d.bits < 8) :
    (c + BitVec.ofNat 4 d.bits).toNat = c.toNat + d.bits := by
  rw [BitVec.toNat_add, Depth.bits_toNat]; omega

@[simp] theorem Depth.ofField_field (d : Depth) : Depth.ofField (BitVec.ofNat 4 d.bits) = some d := by
  cases d <;> decide

/-- A `CFG` operand names a depth exactly when it is the depth's number (R72, R91). -/
theorem Depth.ofField_eq_some {f : BitVec 4} {d : Depth} : Depth.ofField f = some d ↔ f = BitVec.ofNat 4 d.bits := by
  constructor
  · unfold Depth.ofField
    repeat' split
    all_goals simp_all [Depth.bits]
    all_goals (rintro rfl; rfl)
  · rintro rfl; simp

/-! ### Raising a fault, and the common checks -/

/-- The state t after a fault taken in s (R181): its code is no success, and is `F_LOCKED` only in a locked block. -/
def Raised (s t : State) : Prop :=
  ∃ c, c ≠ .ok ∧ (c = .locked → s.isLocked) ∧ t = (s.recordFault c).answer c 0#128

theorem Raised.intro {s t : State} {c : Status} (hc : c ≠ .ok) (hl : c ≠ .locked) (h : raise c s = .next t) :
    Raised s t := by
  unfold raise at h; cases h; exact ⟨c, hc, fun e => absurd e hl, rfl⟩

theorem respond_next {s t : State} {v : BitVec 128} (h : respond v s = .next t) : t = s.answer .ok v := by
  unfold respond at h; cases h; rfl

/-- The common checks passed (R186). -/
theorem whenReady_ready {s : State} {d : Depth} {body : Depth → Host.Outcome State Fault Refusal}
    (hf : s.fault = .ok) (hd : s.depth = .configured d) : whenReady s body = body d := by
  simp [whenReady, State.isLocked, hf, hd]

/-- A locked block (R182). -/
theorem whenReady_locked {s : State} {body : Depth → Host.Outcome State Fault Refusal} (hf : s.isLocked) :
    whenReady s body = raise .locked s := by
  simp [whenReady, hf]

/-- A block not configured and not locked (R185). -/
theorem whenReady_notConfigured {s : State} {body : Depth → Host.Outcome State Fault Refusal}
    (hf : s.fault = .ok) (hd : s.depth = .notConfigured) : whenReady s body = raise .noCfg s := by
  simp [whenReady, State.isLocked, hf, hd]

/-- If a command with the common checks answers a next state, a common fault was taken or its body answered it. -/
theorem whenReady_next {s t : State} {body : Depth → Host.Outcome State Fault Refusal}
    (h : whenReady s body = .next t) :
    Raised s t ∨ ∃ d, s.fault = .ok ∧ s.depth = .configured d ∧ body d = .next t := by
  by_cases hf : s.isLocked
  · rw [whenReady_locked hf] at h
    unfold raise at h; cases h
    exact .inl ⟨.locked, by simp, fun _ => hf, rfl⟩
  · have hok : s.fault = .ok := by simpa [State.isLocked] using hf
    cases hd : s.depth with
    | notConfigured =>
      rw [whenReady_notConfigured hok hd] at h
      exact .inl (Raised.intro (by simp) (by simp) h)
    | configured d =>
      rw [whenReady_ready hok hd] at h
      exact .inr ⟨d, hok, rfl, h⟩

/-- If the common checks' outcome is a stop, the body's is. -/
theorem whenReady_fault {s : State} {f : Fault} {body : Depth → Host.Outcome State Fault Refusal}
    (h : whenReady s body = .fault f) : ∃ d, s.depth = .configured d ∧ body d = .fault f := by
  unfold whenReady at h
  split at h
  · cases h
  · split at h
    · cases h
    · exact ⟨_, ‹_›, h⟩

end Sys2Proof.Machine
end

