-- ==== Sys2Proof/Laws/Exec.lean ====
section
/-! SUPPORT. What each command can do, said once: if it answers a next state, it took a fault, or it had its effect. -/

namespace Sys2Proof.Machine

/-- `CFG` (R90, R91). -/
theorem execCfg_next {d : BitVec 4} {s t : State} (h : execCfg d s = .next t) :
    Raised s t ∨ ∃ e, Depth.ofField d = some e ∧ t = (s.startRun e).answer .ok 0#128 := by
  unfold execCfg at h
  split at h
  · exact .inl (Raised.intro (by simp) (by simp) h)
  · exact .inr ⟨_, ‹_›, respond_next h⟩

/-- `RDSTAT` (R93). -/
theorem execRdstat_next {s t : State} (h : execRdstat s = .next t) : t = s.answer .ok s.statusWord :=
  respond_next h

/-- `ENC` (R101). -/
theorem encAt_next {p : Params} {x : BitVec 8} {s t : State} (h : encAt p x s = .next t) :
    Raised s t ∨ ∃ d, s.fault = .ok ∧ s.depth = .configured d ∧ ¬ s.glyphFull
      ∧ ¬ (s.cur.toNat + d.bits = 8 ∧ s.bsFull p) ∧ t = (s.packSample d x).answer .ok 0#128 := by
  rcases whenReady_next h with h | ⟨d, hf, hd, h⟩
  · exact .inl h
  · split at h
    · exact .inl (Raised.intro (by simp) (by simp) h)
    · split at h
      · exact .inl (Raised.intro (by simp) (by simp) h)
      · exact .inr ⟨d, hf, hd, ‹_›, ‹_›, respond_next h⟩

/-- `COMMIT` (R105). -/
theorem commitAt_next {p : Params} {s t : State} (h : commitAt p s = .next t) :
    Raised s t ∨ ∃ d, s.fault = .ok ∧ s.depth = .configured d ∧ s.gopen = false
      ∧ ¬ (s.bytePending ∧ s.bsFull p) ∧ t = s.flush.answer .ok 0#128 := by
  rcases whenReady_next h with h | ⟨d, hf, hd, h⟩
  · exact .inl h
  · split at h
    · exact .inl (Raised.intro (by simp) (by simp) h)
    · split at h
      · exact .inl (Raised.intro (by simp) (by simp) h)
      · exact .inr ⟨d, hf, hd, by simpa using ‹¬ s.gopen = true›, ‹_›, respond_next h⟩

/-- `SEEK` (R116). -/
theorem execSeek_next {off : BitVec 32} {s t : State} (h : execSeek off s = .next t) :
    Raised s t ∨ ∃ d, s.fault = .ok ∧ s.depth = .configured d ∧ t = (s.seekTo off).answer .ok 0#128 := by
  rcases whenReady_next h with h | ⟨d, hf, hd, h⟩
  · exact .inl h
  · exact .inr ⟨d, hf, hd, respond_next h⟩

/-- `DEC` (R118). -/
theorem execDec_next {s t : State} (h : execDec s = .next t) :
    Raised s t ∨ ∃ d b, s.fault = .ok ∧ s.depth = .configured d ∧ s.uvalid = true
      ∧ s.uptr.toNat < s.len.toNat ∧ Memory.read s.bs s.uptr.toNat = some b
      ∧ t = (s.nextLane d).answer .ok (zext128 (sampleAt d b s.ucur.toNat)) := by
  rcases whenReady_next h with h | ⟨d, hf, hd, h⟩
  · exact .inl h
  · split at h
    · exact .inl (Raised.intro (by simp) (by simp) h)
    · split at h
      · exact .inl (Raised.intro (by simp) (by simp) h)
      · split at h
        · cases h
        · exact .inr ⟨d, _, hf, hd, by simpa using ‹¬ s.uvalid = false›, by omega, ‹_›, respond_next h⟩

/-- `GBEGIN` (R131). -/
theorem gbeginAt_next {p : Params} {w k : BitVec 16} {s t : State} (h : gbeginAt p w k s = .next t) :
    Raised s t ∨ ∃ d, s.fault = .ok ∧ s.depth = .configured d ∧ s.gopen = false ∧ s.cur = 0#4
      ∧ ¬ s.recFull p ∧ t = (s.openGlyph w k).answer .ok 0#128 := by
  rcases whenReady_next h with h | ⟨d, hf, hd, h⟩
  · exact .inl h
  · split at h
    · exact .inl (Raised.intro (by simp) (by simp) h)
    · split at h
      · exact .inl (Raised.intro (by simp) (by simp) h)
      · split at h
        · exact .inl (Raised.intro (by simp) (by simp) h)
        · exact .inr ⟨d, hf, hd, by simpa using ‹¬ s.gopen = true›,
            by simpa [State.bytePending] using ‹¬ s.bytePending›, ‹_›, respond_next h⟩

/-- `GEND` (R134). -/
theorem gendAt_next {p : Params} {a l k : BitVec 16} {s t : State} (h : gendAt p a l k s = .next t) :
    Raised s t ∨ ∃ d, s.fault = .ok ∧ s.depth = .configured d ∧ s.gopen = true
      ∧ s.gCnt.toNat = s.glyphSize ∧ yOffsetOf k ≤ 32767 ∧ ¬ (s.bytePending ∧ s.bsFull p)
      ∧ t = (s.flush.appendRecord (s.glyphRecord a l k)).answer .ok (zext128 s.nrec) := by
  rcases whenReady_next h with h | ⟨d, hf, hd, h⟩
  · exact .inl h
  · split at h
    · exact .inl (Raised.intro (by simp) (by simp) h)
    · split at h
      · exact .inl (Raised.intro (by simp) (by simp) h)
      · split at h
        · exact .inl (Raised.intro (by simp) (by simp) h)
        · split at h
          · exact .inl (Raised.intro (by simp) (by simp) h)
          · exact .inr ⟨d, hf, hd, by simpa using ‹¬ s.gopen = false›, by simpa using ‹¬ s.gCnt.toNat ≠ _›,
              by omega, ‹_›, respond_next h⟩

/-- `RDREC` (R141). -/
theorem execRdrec_next {idx : BitVec 16} {s t : State} (h : execRdrec idx s = .next t) :
    Raised s t ∨ ∃ d r, s.fault = .ok ∧ s.depth = .configured d ∧ idx.toNat < s.nrec.toNat
      ∧ Memory.read s.recs idx.toNat = some r ∧ t = s.answer .ok (zext128 r.pack) := by
  rcases whenReady_next h with h | ⟨d, hf, hd, h⟩
  · exact .inl h
  · split at h
    · exact .inl (Raised.intro (by simp) (by simp) h)
    · split at h
      · cases h
      · exact .inr ⟨d, _, hf, hd, by omega, ‹_›, respond_next h⟩

/-- `RDBS` (R150). -/
theorem execRdbs_next {a : BitVec 32} {s t : State} (h : execRdbs a s = .next t) :
    Raised s t ∨ ∃ d b, s.fault = .ok ∧ s.depth = .configured d ∧ a.toNat < s.len.toNat
      ∧ Memory.read s.bs a.toNat = some b ∧ t = s.answer .ok (zext128 b) := by
  rcases whenReady_next h with h | ⟨d, hf, hd, h⟩
  · exact .inl h
  · split at h
    · exact .inl (Raised.intro (by simp) (by simp) h)
    · split at h
      · cases h
      · exact .inr ⟨d, _, hf, hd, by omega, ‹_›, respond_next h⟩

/-- `step` is the step function at this block's capacities (R42). -/
theorem exec_eq_execAt (i : Instr) (s : State) : exec i s = execAt Config.params i s := by cases i <;> rfl

/-! ### One step -/

theorem step_idle {s : State} (h : s.input = []) : step s = .next s := by
  unfold step serveHost; simp [h]

theorem step_reset {s : State} {q : Option (BitVec 64)} {rest : List HostAction} (h : s.input = .reset q :: rest) :
    step s = .next s.takeAction.hostReset := by
  unfold step serveHost; simp [h]

theorem step_command {s : State} {w : BitVec 64} {rest : List HostAction} (h : s.input = .command w :: rest) :
    step s = serveWord exec w s.takeAction := by
  unfold step serveHost; simp [h]

theorem serveWord_next {run : Instr → State → Host.Outcome State Fault Refusal} {w : BitVec 64} {s t : State}
    (h : serveWord run w s = .next t) :
    Raised s t ∨ ∃ i, decode w = .ok i ∧ run i s = .next t := by
  unfold serveWord at h
  split at h
  · exact .inr ⟨_, ‹_›, h⟩
  · exact .inl (Raised.intro (by simp) (by simp) h)

/-- If a step answers a next state, the block waited, was reset, took a fault, or executed a command. -/
theorem step_next {s t : State} (h : step s = .next t) :
    (s.input = [] ∧ t = s)
      ∨ (∃ q rest, s.input = .reset q :: rest ∧ t = s.takeAction.hostReset)
      ∨ (∃ w rest, s.input = .command w :: rest ∧ Raised s.takeAction t)
      ∨ ∃ w rest i, s.input = .command w :: rest ∧ decode w = .ok i ∧ exec i s.takeAction = .next t := by
  cases hi : s.input with
  | nil => rw [step_idle hi] at h; cases h; exact .inl ⟨rfl, rfl⟩
  | cons a rest =>
    cases a with
    | reset q => rw [step_reset hi] at h; cases h; exact .inr (.inl ⟨q, rest, rfl, rfl⟩)
    | command w =>
      rw [step_command hi] at h
      rcases serveWord_next h with h | ⟨i, hd, h⟩
      · exact .inr (.inr (.inl ⟨w, rest, rfl, h⟩))
      · exact .inr (.inr (.inr ⟨w, rest, i, rfl, hd, h⟩))

end Sys2Proof.Machine
end

