-- ==== Sys2Proof/Laws/PerInstr.lean ====
section
/-! SUPPORT. Per command, of the command as syntax: its encoded word selects its own row of R71's match and mask table,
and is well formed. -/

namespace Sys2Proof.Laws.EncodedRow

/-- The command's word selects the command's row, which is a row of the table (R71), and so is well formed. -/
def Statement (i : Instr) : Prop :=
  i.row ∈ opcodeTable ∧ i.row.selects (encode i) = true ∧ wellFormedWord (encode i) = true

theorem of_selects {i : Instr} (hm : i.row ∈ opcodeTable) (hs : encode i &&& i.row.mask = i.row.pattern) :
    Statement i :=
  ⟨hm, by simp [OpcodeRow.selects, hs], List.any_eq_true.mpr ⟨i.row, hm, by simp [OpcodeRow.selects, hs]⟩⟩

/-- Masking n low bits away leaves the fixed high part. -/
theorem mask_low {m n : Nat} (hi : BitVec m) (lo : BitVec n) :
    (hi ++ lo) &&& (BitVec.allOnes m ++ 0#n) = hi ++ 0#n := by
  rw [BitVec.and_append]; simp

theorem cfg (d : BitVec 4) : Statement (.cfg d) :=
  of_selects (by simp [Instr.row, opcodeTable]) (mask_low (0x01#8 ++ 0#52) d)

theorem enc (x : BitVec 8) : Statement (.enc x) :=
  of_selects (by simp [Instr.row, opcodeTable]) (mask_low (0x10#8 ++ 0#48) x)

theorem commit : Statement .commit := of_selects (by simp [Instr.row, opcodeTable]) (by decide)

theorem seek (off : BitVec 32) : Statement (.seek off) :=
  of_selects (by simp [Instr.row, opcodeTable]) (mask_low (0x20#8 ++ 0#24) off)

theorem dec : Statement .dec := of_selects (by simp [Instr.row, opcodeTable]) (by decide)

theorem gbegin (w h : BitVec 16) : Statement (.gbegin w h) :=
  of_selects (by simp [Instr.row, opcodeTable])
    (by rw [encode, BitVec.append_assoc]; exact mask_low (0x30#8 ++ 0#24) (h ++ w))

theorem gend (adv left top : BitVec 16) : Statement (.gend adv left top) :=
  of_selects (by simp [Instr.row, opcodeTable])
    (by
      rw [encode, BitVec.append_assoc, BitVec.append_assoc]
      exact mask_low (0x31#8 ++ 0#8) (top ++ (left ++ adv)))

theorem rdrec (idx : BitVec 16) : Statement (.rdrec idx) :=
  of_selects (by simp [Instr.row, opcodeTable]) (mask_low (0x40#8 ++ 0#40) idx)

theorem rdbs (addr : BitVec 32) : Statement (.rdbs addr) :=
  of_selects (by simp [Instr.row, opcodeTable]) (mask_low (0x41#8 ++ 0#24) addr)

theorem rdstat : Statement .rdstat := of_selects (by simp [Instr.row, opcodeTable]) (by decide)

end Sys2Proof.Laws.EncodedRow
end

