-- ==== Sys2Proof/Laws/ReadOut.lean ====
section
/-! SUPPORT. What the host reads back is what the block showed: a record from the data of `RDREC` (R35, R141), and the
report of a run from the status word (R93, R151). -/

namespace Sys2Proof.Machine

/-- A field that ends below bit 112 is the same in a record's 112 bits and in the data that carries them (R76). -/
theorem extract_zext128 (v : BitVec 112) {lo n : Nat} (h : lo + n ≤ 112) :
    (zext128 v).extractLsb' lo n = v.extractLsb' lo n := by
  ext i hi; simp [zext128]; omega

/-- The host reads the record that `RDREC` returned (R35, R141). -/
@[simp] theorem recordOfData_pack (r : Record) : recordOfData (zext128 r.pack) = r := by
  obtain ⟨a, b, c, d, e, f⟩ := r
  unfold recordOfData
  congr 1 <;> rw [extract_zext128 _ (by decide)] <;> unfold Record.pack
  · exact (BitVec.extractLsb'_append_eq_of_add_le (by decide)).trans BitVec.extractLsb'_eq_self
  · iterate 1 refine (BitVec.extractLsb'_append_eq_of_le (by decide)).trans ?_
    exact (BitVec.extractLsb'_append_eq_of_add_le (by decide)).trans BitVec.extractLsb'_eq_self
  · iterate 2 refine (BitVec.extractLsb'_append_eq_of_le (by decide)).trans ?_
    exact (BitVec.extractLsb'_append_eq_of_add_le (by decide)).trans BitVec.extractLsb'_eq_self
  · iterate 3 refine (BitVec.extractLsb'_append_eq_of_le (by decide)).trans ?_
    exact (BitVec.extractLsb'_append_eq_of_add_le (by decide)).trans BitVec.extractLsb'_eq_self
  · iterate 4 refine (BitVec.extractLsb'_append_eq_of_le (by decide)).trans ?_
    exact (BitVec.extractLsb'_append_eq_of_add_le (by decide)).trans BitVec.extractLsb'_eq_self
  · iterate 5 refine (BitVec.extractLsb'_append_eq_of_le (by decide)).trans ?_
    exact BitVec.extractLsb'_eq_self

/-! ### The fields of the status word that the host looks at (R93) -/

theorem statusWord_len (s : State) : s.statusWord.extractLsb' 0 32 = s.len :=
  (BitVec.extractLsb'_append_eq_of_add_le (by decide)).trans BitVec.extractLsb'_eq_self

theorem statusWord_nrec (s : State) : s.statusWord.extractLsb' 32 16 = s.nrec := by
  unfold State.statusWord
  iterate 1 refine (BitVec.extractLsb'_append_eq_of_le (by decide)).trans ?_
  exact (BitVec.extractLsb'_append_eq_of_add_le (by decide)).trans BitVec.extractLsb'_eq_self

theorem statusWord_fault (s : State) : s.statusWord.extractLsb' 48 4 = s.fault.code := by
  unfold State.statusWord
  iterate 2 refine (BitVec.extractLsb'_append_eq_of_le (by decide)).trans ?_
  exact (BitVec.extractLsb'_append_eq_of_add_le (by decide)).trans BitVec.extractLsb'_eq_self

theorem statusWord_depth (s : State) : s.statusWord.extractLsb' 52 4 = s.depth.field := by
  unfold State.statusWord
  iterate 3 refine (BitVec.extractLsb'_append_eq_of_le (by decide)).trans ?_
  exact (BitVec.extractLsb'_append_eq_of_add_le (by decide)).trans BitVec.extractLsb'_eq_self

theorem statusWord_cur (s : State) : s.statusWord.extractLsb' 56 4 = s.cur := by
  unfold State.statusWord
  iterate 4 refine (BitVec.extractLsb'_append_eq_of_le (by decide)).trans ?_
  exact (BitVec.extractLsb'_append_eq_of_add_le (by decide)).trans BitVec.extractLsb'_eq_self

theorem statusWord_gopen (s : State) : s.statusWord.getLsbD 60 = s.gopen := by
  have h : s.statusWord.extractLsb' 60 1 = BitVec.ofBool s.gopen := by
    unfold State.statusWord
    iterate 5 refine (BitVec.extractLsb'_append_eq_of_le (by decide)).trans ?_
    exact (BitVec.extractLsb'_append_eq_of_add_le (by decide)).trans BitVec.extractLsb'_eq_self
  simpa using congrArg (fun x => x.getLsbD 0) h

/-- Only `OK` has the code 0 (R180). -/
@[simp] theorem Status.code_eq_zero (c : Status) : c.code = 0#4 ↔ c = .ok := by cases c <;> decide

/-- The depth the host reads in the status word (R93). -/
theorem Depth.ofField_depthReg (q : DepthReg) :
    Depth.ofField q.field = match q with | .notConfigured => none | .configured d => some d := by
  rcases q with _ | d
  · rfl
  · cases d <;> rfl

/-- The host's report of a complete run holds its depth, length and number of records (R151, R222). -/
theorem RunReport.ofResponse_complete {s : State} {d : Depth} (h : s.runComplete) (hd : s.depth = .configured d) :
    RunReport.ofResponse ⟨.ok, s.statusWord⟩ = some ⟨d, s.len, s.nrec⟩ := by
  obtain ⟨hf, -, hg, hc⟩ := h
  rw [RunReport.ofResponse, if_pos ⟨rfl, by rw [statusWord_fault, hf]; rfl, by rw [statusWord_gopen, hg],
    by rw [statusWord_cur, hc]⟩, statusWord_depth, statusWord_len, statusWord_nrec, Depth.ofField_depthReg, hd]
  rfl

/-- Of a run that is not complete there is none (R151, R222). -/
theorem RunReport.ofResponse_incomplete {s : State} (h : ¬ s.runComplete) :
    RunReport.ofResponse ⟨.ok, s.statusWord⟩ = none := by
  simp only [RunReport.ofResponse, statusWord_fault, statusWord_gopen, statusWord_cur, statusWord_depth,
    Depth.ofField_depthReg, Status.code_eq_zero, true_and]
  split
  · next hs =>
    have : s.depth = .notConfigured := by
      by_contra hd
      exact h ⟨hs.1, hd, hs.2.1, hs.2.2⟩
    simp [this]
  · rfl

end Sys2Proof.Machine
end

