-- ==== Sys2Proof/Tests/Slice0.lean ====
section
/-! SUPPORT. Tests of single steps and of the decoder, their expected results from 95_test_vectors.md (its section in
each docstring), and a witness for the hypotheses of each statement of Certificates/Slice0/Obligations.lean. -/

namespace Sys2Proof.Tests

open Sys2Proof Sys2Proof.Machine

/-! ### Well-formedness -/

/-- A reserved bit that is 1, a reserved opcode, and the word of all zeros (2.1). -/
theorem test_wellFormedWord_refuses :
    wellFormedWord 0x0100000000000012#64 = false ∧ wellFormedWord 0x1000000000000100#64 = false
    ∧ wellFormedWord 0x1100000000000001#64 = false ∧ wellFormedWord 0x2000000100000000#64 = false
    ∧ wellFormedWord 0x2100000000000001#64 = false ∧ wellFormedWord 0x3000000100000000#64 = false
    ∧ wellFormedWord 0x3101000000000000#64 = false ∧ wellFormedWord 0x4000000000010000#64 = false
    ∧ wellFormedWord 0x4100000100000000#64 = false ∧ wellFormedWord 0x4200000000000001#64 = false
    ∧ wellFormedWord 0x0200000000000000#64 = false ∧ wellFormedWord 0x1200000000000000#64 = false
    ∧ wellFormedWord 0xFF00000000000000#64 = false ∧ wellFormedWord 0#64 = false := by decide

/-- The widest operands fit (R72). -/
theorem test_wellFormed_accepts :
    (AsmLine.cfg 15).wellFormed ∧ (AsmLine.enc 255).wellFormed ∧ (AsmLine.seek 4294967295).wellFormed
    ∧ (AsmLine.gbegin 65535 65535).wellFormed ∧ (AsmLine.gend 32767 (-32768) 0).wellFormed
    ∧ (AsmLine.rdrec 65535).wellFormed ∧ (AsmLine.rdbs 4294967295).wellFormed
    ∧ (AsmLine.encv [0, 255]).wellFormed ∧ (AsmLine.glyph 1 2 3 (-4) 5 [6, 7]).wellFormed := by decide

theorem test_wellFormed_refuses_cfg : (AsmLine.cfg 16).wellFormed = false := by decide
theorem test_wellFormed_refuses_enc : (AsmLine.enc 0x1FF).wellFormed = false := by decide
theorem test_wellFormed_refuses_negative : (AsmLine.enc (-1)).wellFormed = false := by decide
theorem test_wellFormed_refuses_seek : (AsmLine.seek 4294967296).wellFormed = false := by decide
theorem test_wellFormed_refuses_gbegin :
    (AsmLine.gbegin 65536 1).wellFormed = false ∧ (AsmLine.gbegin 1 65536).wellFormed = false := by decide
theorem test_wellFormed_refuses_gend :
    (AsmLine.gend 32768 0 0).wellFormed = false ∧ (AsmLine.gend 0 (-32769) 0).wellFormed = false
    ∧ (AsmLine.gend 0 0 32768).wellFormed = false := by decide
theorem test_wellFormed_refuses_rdrec : (AsmLine.rdrec 65536).wellFormed = false := by decide
theorem test_wellFormed_refuses_rdbs : (AsmLine.rdbs 4294967296).wellFormed = false := by decide
theorem test_wellFormed_refuses_encv : (AsmLine.encv [1, 256]).wellFormed = false := by decide
theorem test_wellFormed_refuses_glyph :
    (AsmLine.glyph 65536 1 0 0 0 []).wellFormed = false ∧ (AsmLine.glyph 1 65536 0 0 0 []).wellFormed = false
    ∧ (AsmLine.glyph 1 1 32768 0 0 []).wellFormed = false ∧ (AsmLine.glyph 1 1 0 32768 0 []).wellFormed = false
    ∧ (AsmLine.glyph 1 1 0 0 (-32769) []).wellFormed = false
    ∧ (AsmLine.glyph 1 1 0 0 0 [256]).wellFormed = false := by decide

/-- The text of a line, with a comment, and a binary operand (R78). -/
theorem test_assembleText :
    assembleText "GEND 2, -1, 5 ; ends it".toList = some [.gend 2#16 0xFFFF#16 5#16]
    ∧ assembleText "ENC 0b101".toList = some [.enc 5#8] ∧ assembleText "ENC 0x1FF".toList = none
    ∧ assembleText "DECN 2".toList = some [.dec, .dec] := by decide

/-! ### Decoding: words written out from R71 and R72 -/

/-- 2.1. -/
theorem test_decode_cfg : decode 0x0100000000000004#64 = .ok (.cfg 4#4) := by rfl
/-- 2.1. -/
theorem test_decode_enc : decode 0x10000000000000FF#64 = .ok (.enc 0xFF#8) := by rfl
/-- 2.1. -/
theorem test_decode_commit : decode 0x1100000000000000#64 = .ok .commit := by rfl
/-- 2.1. -/
theorem test_decode_seek : decode 0x20000000FFFFFFFF#64 = .ok (.seek 4294967295#32) := by rfl
/-- 2.1. -/
theorem test_decode_dec : decode 0x2100000000000000#64 = .ok .dec := by rfl
/-- 2.1: w is bits 15:0, h bits 31:16. -/
theorem test_decode_gbegin : decode 0x3000000000020001#64 = .ok (.gbegin 1#16 2#16) := by rfl
/-- 2.1: adv is bits 15:0, left bits 31:16, top bits 47:32. -/
theorem test_decode_gend : decode 0x31000005FFFF0002#64 = .ok (.gend 2#16 0xFFFF#16 5#16) := by rfl
/-- 2.1. -/
theorem test_decode_rdrec : decode 0x400000000000FFFF#64 = .ok (.rdrec 65535#16) := by rfl
/-- 2.1. -/
theorem test_decode_rdbs : decode 0x4100000000000002#64 = .ok (.rdbs 2#32) := by rfl
/-- 2.1. -/
theorem test_decode_rdstat : decode 0x4200000000000000#64 = .ok .rdstat := by rfl
/-- 2.1. -/
theorem test_decode_refuses :
    decode 0x0100000000000012#64 = .error .reservedBits ∧ decode 0x1100000000000001#64 = .error .reservedBits
    ∧ decode 0x3101000000000000#64 = .error .reservedBits ∧ decode 0#64 = .error .reservedOpcode
    ∧ decode 0x1200000000000000#64 = .error .reservedOpcode := ⟨rfl, rfl, rfl, rfl, rfl⟩
/-- R56: bits 7:0 come first, the opcode last. -/
theorem test_decode_bytes :
    decodeBytes [0x01#8, 0x00#8, 0x02#8, 0x00#8, 0#8, 0#8, 0#8, 0x30#8, 0xAA#8]
      = .ok (.gbegin 1#16 2#16, [0xAA#8]) := by rfl
/-- R56, R70. -/
theorem test_decode_bytes_too_few : decodeBytes [0x11#8] = .error .tooFewBytes := by rfl
/-- opcode_table.json's row of GEND. -/
theorem test_decodeTableWord : decodeTableWord 64 0x3100000000000000 = some (.gend 0#16 0#16 0#16) := by rfl

/-! ### Single steps -/

/-- The state an outcome gives. -/
def stateOf : Host.Outcome State Fault Refusal → Option State
  | .next t => some t
  | _ => none

/-- The last response of the state an outcome gives: its status number and its data. -/
def answerOf (o : Host.Outcome State Fault Refusal) : Option (Nat × Nat) :=
  (stateOf o).bind fun t => t.output.getLast?.map fun r => (r.status.code.toNat, r.data.toNat)

/-- The block right after `CFG`. -/
def ready (d : Depth) : State := { State.reset with depth := .configured d }

/-- `BS_CAP = 2`, `REC_CAP = 1`. -/
def smallCaps : Params := Params.ofCaps 2 1 (by decide) (by decide)

/-- A block at depth 2 with the bytes 39 02 (2.3). -/
def packed : State := { ready .two with len := 2#32, bs := [(0, 0x39#8), (1, 0x02#8)] }

/-- 2.5, P4: CFG 3 in a block locked by F_NOCFG. -/
theorem test_cfg_rejects :
    (stateOf (execCfg 3#4 { State.reset with fault := .noCfg })).map (·.fault) = some .noCfg
    ∧ answerOf (execCfg 3#4 { State.reset with fault := .noCfg }) = some (2, 0) := by decide
/-- 2.5: a repeated CFG discards the pending sample and the data. -/
theorem test_cfg_restarts :
    (stateOf (execCfg 2#4 { packed with acc := 1#8, cur := 2#4 })).map
      (fun t => (t.depth, t.acc, t.cur, t.len, t.bs)) = some (.configured .two, 0#8, 0#4, 0#32, []) := by rfl

/-- 2.2: the trace's fourth ENC, 0x39 at address 0. -/
theorem test_enc_completes_byte :
    (stateOf (encAt smallCaps 0#8 { ready .two with acc := 0x39#8, cur := 6#4 })).map
      (fun t => (t.acc, t.cur, t.len, t.bs)) = some (0#8, 0#4, 1#32, [(0, 0x39#8)]) := by decide
/-- 2.2: truncation (0xFC at depth 2 after 0xFF) and, with `BS_CAP = 2`, a sample that would complete a third byte. -/
theorem test_enc_masks_and_faults :
    (stateOf (encAt smallCaps 0x05#8 { ready .two with acc := 3#8, cur := 4#4 })).map (·.acc) = some 0x13#8
    ∧ answerOf (encAt smallCaps 6#8 { ready .four with acc := 5#8, cur := 4#4, len := 2#32 }) = some (7, 0) := by
  decide

/-- 2.2: the trace's COMMIT, 02 at address 1. -/
theorem test_commit_flushes :
    (stateOf (commitAt smallCaps { ready .two with acc := 2#8, cur := 2#4, len := 1#32, bs := [(0, 0x39#8)] })).map
      (fun t => (t.acc, t.cur, t.len, t.bs)) = some (0#8, 0#4, 2#32, [(0, 0x39#8), (1, 0x02#8)]) := by decide
/-- 2.2: with `BS_CAP = 2`, COMMIT raises F_CAP and leaves ACC = 05, CUR = 4; 2.6: the glyph check comes first. -/
theorem test_commit_faults :
    (stateOf (commitAt smallCaps { ready .four with acc := 5#8, cur := 4#4, len := 2#32 })).map
      (fun t => (t.acc, t.cur, t.fault)) = some (5#8, 4#4, .cap)
    ∧ answerOf (commitAt smallCaps { ready .two with gopen := true }) = some (4, 0) := by decide

/-- 2.3: SEEK beyond the data is accepted. -/
theorem test_seek_beyond_the_data :
    (stateOf (execSeek 5#32 packed)).map (fun t => (t.uvalid, t.uptr, t.ucur, t.fault))
      = some (true, 5#32, 0#4, .ok) := by decide

/-- 2.3: depth 2, bytes 39 02: the fourth sample of the first byte is 0, and UPTR moves. -/
theorem test_dec_crosses_byte :
    answerOf (execDec { packed with uvalid := true, ucur := 4#4 }) = some (0, 3)
    ∧ (stateOf (execDec { packed with uvalid := true, ucur := 6#4 })).map (fun t => (t.uptr, t.ucur))
      = some (1#32, 0#4) := by decide
/-- 2.3: no SEEK since CFG; the end of the data. -/
theorem test_dec_faults :
    answerOf (execDec packed) = some (4, 0)
    ∧ answerOf (execDec { packed with uvalid := true, uptr := 2#32 }) = some (8, 0) := by decide

/-- 2.4: CFG 2, ENC 1, COMMIT, GBEGIN 1, 1. -/
theorem test_gbegin_opens :
    (stateOf (gbeginAt smallCaps 1#16 1#16 { ready .two with len := 1#32, bs := [(0, 1#8)] })).map
      (fun t => (t.gOff, t.gW, t.gH, t.gCnt, t.gopen)) = some (1#32, 1#16, 1#16, 0#32, true) := by decide
/-- 2.4: a byte pending; `REC_CAP = 1` reached. -/
theorem test_gbegin_faults :
    answerOf (gbeginAt smallCaps 1#16 1#16 { ready .two with acc := 1#8, cur := 2#4 }) = some (4, 0)
    ∧ answerOf (gbeginAt smallCaps 0#16 0#16 { ready .four with nrec := 1#16 }) = some (7, 0) := by decide

/-- P2, line 12: left is -1, top is 5, yOffset is -4. -/
theorem test_gend_appends :
    (stateOf (gendAt smallCaps 2#16 0xFFFF#16 5#16
      { ready .four with gopen := true, gOff := 2#32, gW := 1#16, gH := 2#16, gCnt := 2#32, len := 3#32 })).map
      (fun t => (t.recs, t.nrec, t.gopen))
      = some ([(0, ⟨2#32, 1#16, 2#16, 2#16, 0xFFFF#16, 0xFFFC#16⟩)], 1#16, false) := by decide
/-- 2.4 and 2.6: F_COUNT; F_RANGE for -32767; F_RANGE before F_CAP. -/
theorem test_gend_faults :
    answerOf (gendAt smallCaps 1#16 0#16 0#16
      { ready .two with gopen := true, gW := 2#16, gH := 1#16, gCnt := 1#32, acc := 1#8, cur := 2#4 }) = some (5, 0)
    ∧ answerOf (gendAt smallCaps 0#16 0#16 0x8001#16 { ready .two with gopen := true }) = some (6, 0)
    ∧ answerOf (gendAt smallCaps 0#16 0#16 0x8000#16
      { ready .four with gopen := true, gW := 1#16, gH := 1#16, gCnt := 1#32, cur := 4#4, len := 2#32 })
      = some (6, 0) := by decide

/-- P2, line 15. -/
theorem test_rdrec_layout :
    answerOf (execRdrec 0#16
      { ready .four with nrec := 1#16, recs := [(0, ⟨2#32, 1#16, 2#16, 2#16, 0xFFFF#16, 0xFFFC#16⟩)] })
      = some (0, 0x0000FFFCFFFF00020002000100000002) := by decide
/-- 2.4. -/
theorem test_rdrec_bounds : answerOf (execRdrec 0#16 (ready .two)) = some (8, 0) := by decide

/-- P2, line 17, on these bytes. -/
theorem test_rdbs_reads : answerOf (execRdbs 1#32 packed) = some (0, 0x02) := by decide
/-- 2.5: address LEN is not readable. -/
theorem test_rdbs_bounds : answerOf (execRdbs 2#32 packed) = some (8, 0) := by decide

/-- P5, line 22. -/
theorem test_rdstat_layout :
    answerOf (execRdstat { ready .two with
      acc := 5#8, cur := 4#4, len := 2#32, uvalid := true, uptr := 2#32, gopen := true, nrec := 1#16 })
      = some (0, 0x00000050000000023420000100000002) := by decide
/-- P4, line 14: a locked block answers. -/
theorem test_rdstat_locked :
    answerOf (execRdstat { ready .eight with len := 1#32, uvalid := true, uptr := 1#32, fault := .bounds })
      = some (0, 0x00000000000000012088000000000001) := by decide

/-- 2.6: after F_NOCFG, ENC 1 answers F_LOCKED and the first fault stays. -/
theorem test_locked_beats_not_configured :
    answerOf (execEnc 1#8 { State.reset with fault := .noCfg }) = some (9, 0)
    ∧ (stateOf (execEnc 1#8 { State.reset with fault := .noCfg })).map (·.fault) = some .noCfg := by decide
/-- 2.6: an illegal word in a locked block answers F_ILLEGAL. -/
theorem test_illegal_beats_locked :
    answerOf (step ({ ready .two with fault := .seq }.present 0#64)) = some (1, 0) := by decide
/-- 2.6: the first command after reset. -/
theorem test_withFetchWord :
    answerOf (step (State.reset.withFetchWord 64 0x1000000000000001)) = some (3, 0) := by decide
/-- R210: a reset that finds a word in flight returns no response. -/
theorem test_reset_clears :
    stateOf (step { packed with input := [.reset (some 0x1100000000000000#64)] }) = some State.reset := by decide

/-! ### The software around the block -/

/-- 2.7, S2. -/
theorem test_quant : [0#8, 85#8, 170#8, 255#8].map (quant .two) = [0#8, 1#8, 2#8, 3#8] := by decide
/-- 2.7: the row m = 0xA0 of three pixels: 1, 0, 1. -/
theorem test_quant1 : (Bitmap.mk 3 1 1 [0xA0#8]).samples .one = some [1#8, 0#8, 1#8] := by decide
/-- S8: 0x20 to 0x7E are 95 code points. -/
theorem test_default_range :
    ({ fontSize := 12, depth := 1 } : RunInputs).codePoints.length = 95
    ∧ ({ fontSize := 12, depth := 1 } : RunInputs).codePoints.head? = some 32
    ∧ ({ fontSize := 12, depth := 1 } : RunInputs).codePoints.getLast? = some 126 := by decide

/-- R172, R173: an unsupported depth is rejected before the rasteriser is asked; without one the run aborts. -/
theorem test_conversion_failures :
    ({ fontSize := 12, depth := 18 } : RunInputs).conversion none = .error .unsupportedDepth
    ∧ ({ fontSize := 12, depth := 2 } : RunInputs).conversion none = .error .noRasteriser := ⟨rfl, rfl⟩

/-- P5's end: the report of its status word, and the record of line 27 (2.5, 3). -/
theorem test_read_out :
    RunReport.ofResponse ⟨.ok, 0x00000002000000022020000200000003#128⟩ = some ⟨.two, 3#32, 2#16⟩
    ∧ recordOfData 0x0000FFFF000000030002000200000002#128 = ⟨2#32, 2#16, 2#16, 3#16, 0#16, 0xFFFF#16⟩ := by decide

/-- P5, line 22 (a glyph open, bits pending) and P4, line 14 (locked): nothing is read out, and there is no asset. -/
theorem test_read_out_incomplete :
    RunReport.ofResponse ⟨.ok, 0x00000050000000023420000100000002#128⟩ = none
    ∧ RunReport.ofResponse ⟨.ok, 0x00000000000000012088000000000001#128⟩ = none
    ∧ ({ ready .eight with fault := .bounds } : State).asset ⟨32, 126, 12⟩ = none := by decide

/-- S3. -/
theorem test_canvasWidth :
    (FontAsset.mk .one [] [⟨0#32, 0#16, 0#16, 6#16, 0#16, 0#16⟩, ⟨0#32, 0#16, 0#16, 7#16, 0#16, 0#16⟩,
      ⟨0#32, 0#16, 0#16, 5#16, 0#16, 0#16⟩] 0 2 12).canvasWidth = 18 := by decide

/-! ### Witnesses: states and operands that meet each statement's hypotheses, one for each clause

`BitVec.ofNat 32 Config.params.bsCap` is the length of a full store, whatever the capacity. -/

/-- A block whose bitstream store is full. -/
def fullStore (d : Depth) : State := { ready d with len := BitVec.ofNat 32 Config.params.bsCap }

/-- A block whose record store is full. -/
def fullRecords (d : Depth) : State := { ready d with nrec := BitVec.ofNat 16 Config.params.recCap }

theorem fullStore_len (d : Depth) : (fullStore d).len.toNat = Config.params.bsCap := by
  have := Config.params.bsCap_le
  show Config.params.bsCap % 2 ^ 32 = _; omega

theorem fullRecords_nrec (d : Depth) : (fullRecords d).nrec.toNat = Config.params.recCap := by
  have := Config.params.recCap_le
  show Config.params.recCap % 2 ^ 16 = _; omega

theorem zero_ne_bsCap : (0#32).toNat ≠ Config.params.bsCap := by
  have := Config.params.bsCap_pos; simp; omega

theorem zero_ne_recCap : (0#16).toNat ≠ Config.params.recCap := by
  have := Config.params.recCap_pos; simp; omega

/-- The block after `CFG` meets the invariants. -/
theorem ready_inv (d : Depth) : (ready d).Inv Config.params where
  pack := ⟨by show 0 < 8; decide, by intros; exact ⟨0, rfl⟩, by intro; rfl, by show 0 < 1; decide, by intro; rfl⟩
  unpk := ⟨by show 0 < 8; decide, by intros; exact ⟨0, rfl⟩, by intro; exact ⟨rfl, rfl⟩, by intro; exact ⟨rfl, rfl⟩⟩
  store := by
    refine ⟨Nat.zero_le _, Nat.zero_le _, rfl, rfl, ?_, ?_, ?_, ?_, ?_⟩
    · intro h; cases h
    · intro i r h; cases h
    · intro h; cases h
    · intro i r r' h; cases h
    · intro h; cases h
  fault_recorded := by intro h; cases h

/-- The block after one `ENC` of 0x5A at depth 8. -/
def oneByte : State :=
  { ready .eight with len := 1#32, bs := [(0, 0x5A#8)], output := [⟨.ok, 0#128⟩] }

/-- The block after one `ENC` of 1 at depth 2. -/
def oneSample : State := { ready .two with acc := 1#8, cur := 2#4, output := [⟨.ok, 0#128⟩] }

theorem oneByte_exec : exec (.enc 0x5A#8) (ready .eight) = .next oneByte := by
  have h : exec (.enc 0x5A#8) (ready .eight)
      = if (0#4).toNat + Depth.eight.bits = 8 ∧ (0#32).toNat = Config.params.bsCap then raise .cap (ready .eight)
        else .next oneByte := rfl
  rw [h, if_neg fun e => zero_ne_bsCap e.2]

theorem oneSample_exec : exec (.enc 1#8) (ready .two) = .next oneSample := rfl

theorem test_witness_EncodeOfDecodeIsTheWord : decode 0x30000000FFFFFFFF#64 = .ok (.gbegin 65535#16 65535#16) := rfl

theorem test_witness_OpcodeRowsAreDisjoint :
    ∃ r ∈ opcodeTable, r.selects 0x010000000000000F#64 = true := by decide

theorem test_witness_StepRunsTheDecodedCommand :
    (State.reset.present 0x4200000000000000#64).input = .command 0x4200000000000000#64 :: []
    ∧ decode 0x4200000000000000#64 = .ok .rdstat := ⟨rfl, rfl⟩

/-- A reserved bit and a reserved opcode. -/
theorem test_witness_IllegalWordRaisesIllegal :
    (State.reset.present 0x2000000100000000#64).input = .command 0x2000000100000000#64 :: []
    ∧ wellFormedWord 0x2000000100000000#64 = false ∧ wellFormedWord 0#64 = false := by decide

theorem test_witness_BlockWaitsForTheHost : State.reset.input = [] := rfl

theorem test_witness_HostResetClearsTheBlock :
    ({ packed with input := [.reset none] } : State).input = .reset none :: []
    ∧ ({ packed with input := [.reset (some 0#64)] } : State).input = .reset (some 0#64) :: [] := ⟨rfl, rfl⟩

theorem test_witness_LockedBlockRefusesCommands :
    ({ packed with fault := .seq } : State).fault ≠ .ok ∧ (∀ d, Instr.dec ≠ .cfg d) ∧ Instr.dec ≠ .rdstat
    ∧ (({ packed with fault := .seq } : State).present 0#64).input = .command 0#64 :: []
    ∧ wellFormedWord 0#64 = false := by
  refine ⟨by decide, by simp, by decide, rfl, by decide⟩

theorem test_witness_UnconfiguredBlockRefusesCommands :
    State.reset.fault = .ok ∧ State.reset.depth = .notConfigured ∧ (∀ d, Instr.commit ≠ .cfg d)
    ∧ Instr.commit ≠ .rdstat := ⟨rfl, rfl, by simp, by decide⟩

/-- `DEC` presented after reset. -/
theorem test_witness_FaultIsRecordedAndChangesNothingElse :
    (State.reset.present 0x2100000000000000#64).input = .command 0x2100000000000000#64 :: []
    ∧ step (State.reset.present 0x2100000000000000#64)
        = .next { State.reset with fault := .noCfg, output := State.reset.output ++ [⟨.noCfg, 0#128⟩] }
    ∧ Status.noCfg ≠ .ok ∧ State.reset.fault ≠ .locked := ⟨rfl, rfl, by decide, by decide⟩

/-- A locked block that answers `F_LOCKED`. -/
theorem test_witness_OneResponsePerCommand :
    step (({ State.reset with fault := .noCfg } : State).present 0x2100000000000000#64)
      = .next { State.reset with fault := .noCfg, output := State.reset.output ++ [⟨.locked, 0#128⟩] } := rfl

theorem test_witness_CfgStartsARun :
    (1#4, Depth.one) ∈ [(1#4, Depth.one), (2#4, .two), (4#4, .four), (8#4, .eight)]
    ∧ (8#4, Depth.eight) ∈ [(1#4, Depth.one), (2#4, .two), (4#4, .four), (8#4, .eight)] := by decide

theorem test_witness_CfgRejectsOtherDepths :
    0#4 ∉ [1#4, 2#4, 4#4, 8#4] ∧ 3#4 ∉ [1#4, 2#4, 4#4, 8#4] ∧ 15#4 ∉ [1#4, 2#4, 4#4, 8#4] := by decide

/-- A configured block; and the two hypotheses of `CommonChecks`. -/
theorem test_witness_MaskKeepsTheLowBits :
    (ready .two).depth = .configured .two ∧ ({ packed with fault := .seq } : State).fault ≠ .ok
    ∧ State.reset.fault = .ok ∧ State.reset.depth = .notConfigured := ⟨rfl, by decide, rfl, rfl⟩

/-- The four clauses: a full glyph (of no samples); a full store; a lane short of the byte's end; the last lane. -/
theorem test_witness_EncPacksOneSample :
    (let s : State := { ready .two with gopen := true, gH := 5#16 };
      s.fault = .ok ∧ s.depth = .configured .two ∧ s.gopen = true ∧ s.gCnt.toNat = s.gW.toNat * s.gH.toNat)
    ∧ (let s : State := { fullStore .four with cur := 4#4 };
      s.fault = .ok ∧ s.depth = .configured .four ∧ ¬ (s.gopen = true ∧ s.gCnt.toNat = s.gW.toNat * s.gH.toNat)
        ∧ s.cur.toNat + Depth.four.bits = 8 ∧ s.len.toNat = Config.params.bsCap)
    ∧ (let s : State := { ready .one with cur := 6#4 };
      s.fault = .ok ∧ s.depth = .configured .one ∧ ¬ (s.gopen = true ∧ s.gCnt.toNat = s.gW.toNat * s.gH.toNat)
        ∧ s.cur.toNat + Depth.one.bits < 8)
    ∧ (let s : State := { ready .one with cur := 7#4 };
      s.fault = .ok ∧ s.depth = .configured .one ∧ ¬ (s.gopen = true ∧ s.gCnt.toNat = s.gW.toNat * s.gH.toNat)
        ∧ 8 ≤ s.cur.toNat + Depth.one.bits
        ∧ ¬ (s.cur.toNat + Depth.one.bits = 8 ∧ s.len.toNat = Config.params.bsCap)) :=
  ⟨⟨rfl, rfl, rfl, rfl⟩, ⟨rfl, rfl, by decide, by decide, fullStore_len .four⟩,
    ⟨rfl, rfl, by decide, by decide⟩, ⟨rfl, rfl, by decide, by decide, fun e => zero_ne_bsCap e.2⟩⟩

/-- Both cases of the lane: inside the byte, and its last. -/
theorem test_witness_EncFillsItsLane :
    ((ready .two).PackInv ∧ (ready .two).fault = .ok ∧ (ready .two).depth = .configured .two
      ∧ exec (.enc 1#8) (ready .two) = .next oneSample ∧ oneSample.fault = .ok
      ∧ (ready .two).cur.toNat + Depth.two.bits < 8)
    ∧ (ready .eight).PackInv ∧ (ready .eight).fault = .ok ∧ (ready .eight).depth = .configured .eight
      ∧ exec (.enc 0x5A#8) (ready .eight) = .next oneByte ∧ oneByte.fault = .ok
      ∧ ¬ (ready .eight).cur.toNat + Depth.eight.bits < 8 :=
  ⟨⟨(ready_inv _).pack, rfl, rfl, oneSample_exec, rfl, by decide⟩,
    (ready_inv _).pack, rfl, rfl, oneByte_exec, rfl, by decide⟩

theorem test_witness_DepthEightIsTheIdentity :
    ((ready .eight).PackInv ∧ (ready .eight).fault = .ok ∧ (ready .eight).depth = .configured .eight
      ∧ ¬ ((ready .eight).gopen = true ∧ (ready .eight).gCnt.toNat = (ready .eight).gW.toNat * (ready .eight).gH.toNat)
      ∧ (ready .eight).len.toNat ≠ Config.params.bsCap)
    ∧ (let s : State := { oneByte with uvalid := true };
      s.UnpkInv ∧ s.fault = .ok ∧ s.depth = .configured .eight ∧ s.uvalid = true ∧ s.uptr.toNat < s.len.toNat
        ∧ Memory.read s.bs s.uptr.toNat = some 0x5A#8) := by
  refine ⟨⟨(ready_inv _).pack, rfl, rfl, by decide, zero_ne_bsCap⟩, ⟨?_, ?_, ?_, ?_⟩, rfl, rfl, rfl, by decide, rfl⟩
  · decide
  · intros; exact ⟨0, rfl⟩
  · intro h; cases h
  · intro h; cases h

/-- The four clauses: a glyph open; a byte pending before a full store; nothing pending; a byte pending and room. -/
theorem test_witness_CommitFlushesThePendingByte :
    (let s : State := { ready .two with gopen := true };
      s.fault = .ok ∧ s.depth = .configured .two ∧ s.gopen = true)
    ∧ (let s : State := { fullStore .four with cur := 4#4 };
      s.fault = .ok ∧ s.depth = .configured .four ∧ s.gopen = false ∧ s.cur ≠ 0#4
        ∧ s.len.toNat = Config.params.bsCap)
    ∧ ((fullStore .four).fault = .ok ∧ (fullStore .four).depth = .configured .four
        ∧ (fullStore .four).gopen = false ∧ (fullStore .four).cur = 0#4)
    ∧ oneSample.fault = .ok ∧ oneSample.depth = .configured .two ∧ oneSample.gopen = false ∧ oneSample.cur ≠ 0#4
        ∧ oneSample.len.toNat ≠ Config.params.bsCap :=
  ⟨⟨rfl, rfl, rfl⟩, ⟨rfl, rfl, rfl, by decide, fullStore_len .four⟩, ⟨rfl, rfl, rfl, rfl⟩,
    rfl, rfl, rfl, by decide, zero_ne_bsCap⟩

theorem test_witness_SeekConstructsTheDecoder :
    packed.fault = .ok ∧ packed.depth = .configured .two := ⟨rfl, rfl⟩

/-- The clauses: no decoder; the address `LEN`, the first beyond the data; a lane inside the byte, and its last. -/
theorem test_witness_DecReturnsTheNextSample :
    (packed.fault = .ok ∧ packed.depth = .configured .two ∧ packed.uvalid = false)
    ∧ (let s : State := { packed with uvalid := true, uptr := 2#32 };
      s.fault = .ok ∧ s.depth = .configured .two ∧ s.uvalid = true ∧ s.len.toNat ≤ s.uptr.toNat)
    ∧ (let s : State := { packed with uvalid := true, uptr := 1#32, ucur := 4#4 };
      s.fault = .ok ∧ s.depth = .configured .two ∧ s.uvalid = true ∧ s.uptr.toNat < s.len.toNat
        ∧ Memory.read s.bs s.uptr.toNat = some 0x02#8 ∧ s.ucur.toNat + Depth.two.bits < 8)
    ∧ (let s : State := { packed with uvalid := true, uptr := 1#32, ucur := 6#4 };
      s.fault = .ok ∧ s.depth = .configured .two ∧ s.uvalid = true ∧ s.uptr.toNat < s.len.toNat
        ∧ Memory.read s.bs s.uptr.toNat = some 0x02#8 ∧ 8 ≤ s.ucur.toNat + Depth.two.bits) := by decide

/-- The source's four samples 1, 2, 3, 0 in the byte 0x39, and a byte with padding lanes (2.2). -/
theorem test_witness_DecUndoesEncOnOneByte :
    (let s : State := { packed with uvalid := true };
      s.fault = .ok ∧ s.depth = .configured .two ∧ s.uvalid = true ∧ s.ucur = 0#4 ∧ s.uptr.toNat < s.len.toNat
        ∧ Memory.read s.bs s.uptr.toNat = some (unitByte .two [1#8, 2#8, 3#8, 0#8] 0))
    ∧ (let s : State := { packed with uvalid := true, uptr := 1#32 };
      s.fault = .ok ∧ s.depth = .configured .two ∧ s.uvalid = true ∧ s.ucur = 0#4 ∧ s.uptr.toNat < s.len.toNat
        ∧ Memory.read s.bs s.uptr.toNat = some (unitByte .two [2#8] 0)) := by decide

/-- The four clauses: a glyph open; a byte pending; a full record store; room for a record. -/
theorem test_witness_GbeginOpensAGlyph :
    (let s : State := { ready .two with gopen := true };
      s.fault = .ok ∧ s.depth = .configured .two ∧ s.gopen = true)
    ∧ (oneSample.fault = .ok ∧ oneSample.depth = .configured .two ∧ oneSample.gopen = false ∧ oneSample.cur ≠ 0#4)
    ∧ ((fullRecords .two).fault = .ok ∧ (fullRecords .two).depth = .configured .two
        ∧ (fullRecords .two).gopen = false ∧ (fullRecords .two).cur = 0#4
        ∧ (fullRecords .two).nrec.toNat = Config.params.recCap)
    ∧ (ready .two).fault = .ok ∧ (ready .two).depth = .configured .two
        ∧ (ready .two).gopen = false ∧ (ready .two).cur = 0#4 ∧ (ready .two).nrec.toNat ≠ Config.params.recCap :=
  ⟨⟨rfl, rfl, rfl⟩, ⟨rfl, rfl, rfl, by decide⟩, ⟨rfl, rfl, rfl, rfl, fullRecords_nrec .two⟩,
    rfl, rfl, rfl, rfl, zero_ne_recCap⟩

/-- An open glyph of one sample at depth 4, complete, its byte pending. -/
def glyphPending : State :=
  { ready .four with gopen := true, gW := 1#16, gH := 1#16, gCnt := 1#32, acc := 5#8, cur := 4#4 }

/-- The six clauses: no glyph; samples missing; top -32767; a full store; nothing pending (top -32766, a glyph of no
samples); a byte pending and room. -/
theorem test_witness_GendAppendsTheRecord :
    ((ready .four).fault = .ok ∧ (ready .four).depth = .configured .four ∧ (ready .four).gopen = false)
    ∧ (let s : State := { ready .four with gopen := true, gW := 1#16, gH := 1#16 };
      s.fault = .ok ∧ s.depth = .configured .four ∧ s.gopen = true ∧ s.gCnt.toNat ≠ s.gW.toNat * s.gH.toNat)
    ∧ (let s : State := { ready .four with gopen := true };
      s.fault = .ok ∧ s.depth = .configured .four ∧ s.gopen = true ∧ s.gCnt.toNat = s.gW.toNat * s.gH.toNat
        ∧ 1 - (0x8001#16).toInt > 32767)
    ∧ (let s : State := { glyphPending with len := BitVec.ofNat 32 Config.params.bsCap };
      s.fault = .ok ∧ s.depth = .configured .four ∧ s.gopen = true ∧ s.gCnt.toNat = s.gW.toNat * s.gH.toNat
        ∧ 1 - (0#16).toInt ≤ 32767 ∧ s.cur ≠ 0#4 ∧ s.len.toNat = Config.params.bsCap)
    ∧ (let s : State := { ready .four with gopen := true };
      s.fault = .ok ∧ s.depth = .configured .four ∧ s.gopen = true ∧ s.gCnt.toNat = s.gW.toNat * s.gH.toNat
        ∧ 1 - (0x8002#16).toInt ≤ 32767 ∧ s.cur = 0#4)
    ∧ glyphPending.fault = .ok ∧ glyphPending.depth = .configured .four ∧ glyphPending.gopen = true
        ∧ glyphPending.gCnt.toNat = glyphPending.gW.toNat * glyphPending.gH.toNat ∧ 1 - (0#16).toInt ≤ 32767
        ∧ glyphPending.cur ≠ 0#4 ∧ glyphPending.len.toNat ≠ Config.params.bsCap :=
  ⟨⟨rfl, rfl, rfl⟩, ⟨rfl, rfl, rfl, by decide⟩, ⟨rfl, rfl, rfl, rfl, by decide⟩,
    ⟨rfl, rfl, rfl, rfl, by decide, by decide, fullStore_len .four⟩, ⟨rfl, rfl, rfl, rfl, by decide, rfl⟩,
    rfl, rfl, rfl, rfl, by decide, by decide, zero_ne_bsCap⟩

/-- top -32766 and 32767, the ends of the first clause; -32767 and -32768, the second. -/
theorem test_witness_YOffsetIsOneMinusTop :
    (let s : State := { ready .four with gopen := true };
      s.fault = .ok ∧ s.depth = .configured .four ∧ s.gopen = true ∧ s.gCnt.toNat = s.gW.toNat * s.gH.toNat
        ∧ ¬ (s.cur ≠ 0#4 ∧ s.len.toNat = Config.params.bsCap))
    ∧ ((0x8002#16).toInt ≠ -32767 ∧ (0x8002#16).toInt ≠ -32768)
    ∧ ((0x7FFF#16).toInt ≠ -32767 ∧ (0x7FFF#16).toInt ≠ -32768)
    ∧ (0x8001#16).toInt = -32767 ∧ (0x8000#16).toInt = -32768 :=
  ⟨⟨rfl, rfl, rfl, rfl, fun e => e.1 rfl⟩, by decide, by decide, by decide, by decide⟩

/-- The index `NREC`, and the last one below it. -/
theorem test_witness_RdrecReturnsTheRecord :
    let r : Record := ⟨2#32, 1#16, 2#16, 2#16, 0xFFFF#16, 0xFFFC#16⟩
    let s := { ready .four with nrec := 1#16, recs := [(0, r)] }
    s.fault = .ok ∧ s.depth = .configured .four ∧ s.nrec.toNat ≤ (1#16).toNat
    ∧ (0#16).toNat < s.nrec.toNat ∧ Memory.read s.recs (0#16).toNat = some r := by decide

/-- The address `LEN`, and the last one below it. -/
theorem test_witness_RdbsReturnsTheByte :
    packed.fault = .ok ∧ packed.depth = .configured .two ∧ packed.len.toNat ≤ (2#32).toNat
    ∧ (1#32).toNat < packed.len.toNat ∧ Memory.read packed.bs (1#32).toNat = some 0x02#8 := by decide

/-- `ENC` with no glyph open and a response `OK`; `COMMIT` with nothing pending. -/
theorem test_witness_PackerCommandsFrame :
    (exec (.enc 1#8) (ready .two) = .next oneSample ∧ (ready .two).gopen = false
      ∧ oneSample.output = (ready .two).output ++ [⟨.ok, 0#128⟩]
      ∧ ∀ d, (ready .two).depth = .configured d → 8 ≤ (ready .two).cur.toNat + d.bits → 0 ≠ (ready .two).len.toNat)
    ∧ exec .commit (ready .two) = .next { ready .two with output := (ready .two).output ++ [⟨.ok, 0#128⟩] }
    ∧ ((ready .two).cur ≠ 0#4 → 0 ≠ (ready .two).len.toNat) := by
  refine ⟨⟨oneSample_exec, rfl, rfl, ?_⟩, rfl, fun h => absurd rfl h⟩
  intro d hd hb; cases hd; exact absurd hb (by decide)

theorem test_witness_UnpackerCommandsFrame :
    (exec (.seek 5#32) packed
      = .next { packed with uvalid := true, uptr := 5#32, output := packed.output ++ [⟨.ok, 0#128⟩] })
    ∧ exec .dec { packed with uvalid := true }
      = .next { packed with uvalid := true, ucur := 2#4, output := packed.output ++ [⟨.ok, 1#128⟩] } := ⟨rfl, rfl⟩

theorem test_witness_ReadBackCommandsFrame :
    exec (.rdbs 1#32) packed = .next { packed with output := packed.output ++ [⟨.ok, 2#128⟩] }
    ∧ exec (.rdrec 0#16) packed
      = .next { packed with fault := .bounds, output := packed.output ++ [⟨.bounds, 0#128⟩] } := ⟨rfl, rfl⟩

theorem test_witness_GbeginFrame :
    exec (.gbegin 1#16 1#16) (ready .two) = .next
      { ready .two with gopen := true, gW := 1#16, gH := 1#16, output := (ready .two).output ++ [⟨.ok, 0#128⟩] } := by
  have h : exec (.gbegin 1#16 1#16) (ready .two)
      = if (0#16).toNat = Config.params.recCap then raise .cap (ready .two)
        else .next { ready .two with
          gopen := true, gW := 1#16, gH := 1#16, output := (ready .two).output ++ [⟨.ok, 0#128⟩] } := rfl
  rw [h, if_neg zero_ne_recCap]

/-- A glyph of no samples ended; index 1 is not `NREC`. -/
theorem test_witness_GendFrame :
    exec (.gend 0#16 0#16 0#16) { ready .two with gopen := true } = .next
      { ready .two with
        nrec := 1#16, recs := [(0, ⟨0#32, 0#16, 0#16, 0#16, 0#16, 1#16⟩)]
        output := (ready .two).output ++ [⟨.ok, 0#128⟩] }
    ∧ (1 : Nat) ≠ (ready .two).nrec.toNat := ⟨rfl, by decide⟩

theorem test_witness_DepthChangesOnlyInCfgAndReset :
    step (State.reset.present 0x0100000000000004#64)
      = .next { ready .four with output := [⟨.ok, 0#128⟩] }
    ∧ ({ ready .four with output := [⟨.ok, 0#128⟩] } : State).depth ≠ State.reset.depth := ⟨rfl, by decide⟩

theorem test_witness_ReadableCellsNeverChange :
    (ready .eight).Inv Config.params ∧ (∀ d, Instr.enc 0x5A#8 ≠ .cfg d)
    ∧ exec (.enc 0x5A#8) (ready .eight) = .next oneByte := ⟨ready_inv _, by simp, oneByte_exec⟩

theorem test_witness_StepKeepsStoresCanonical :
    Memory.wf packed.bs ∧ Memory.wf packed.recs ∧ step packed = .next packed := ⟨by decide, by decide, rfl⟩

/-- The premises of the three statements that every step keeps the invariants, and of `EveryWordHasAnOutcome`. -/
theorem test_witness_StepKeepsInvariants :
    (ready .eight).Inv Config.params ∧ step (ready .eight) = .next (ready .eight)
    ∧ (ready .eight).depth = .configured .eight := ⟨ready_inv _, rfl, rfl⟩

theorem test_witness_OutcomeIgnoresTheInterface :
    exec (.enc 1#8) (ready .two) = .next oneSample := oneSample_exec

/-- One sample, and a glyph of it with the least top of R137. -/
theorem test_witness_UnitOfEncodingLayout :
    (ready .eight).Inv Config.params ∧ (ready .eight).fault = .ok ∧ (ready .eight).depth = .configured .eight
    ∧ (ready .eight).cur = 0#4 ∧ (ready .eight).gopen = false
    ∧ (ready .eight).len.toNat + packedLength Depth.eight.bits [0x5A#8].length ≤ Config.params.bsCap
    ∧ [0x5A#8].length = (1#16).toNat * (1#16).toNat ∧ (ready .eight).nrec.toNat ≠ Config.params.recCap
    ∧ 1 - (0x8002#16).toInt ≤ 32767 :=
  ⟨ready_inv _, rfl, rfl, rfl, rfl, Config.params.bsCap_pos, rfl, zero_ne_recCap, by decide⟩

/-- The byte 0x5A after `COMMIT`. -/
def oneUnit : State := { oneByte with output := [⟨.ok, 0#128⟩, ⟨.ok, 0#128⟩] }

/-- The byte 0x5A in a glyph of one pixel, after `GEND`. -/
def oneGlyph : State :=
  { oneByte with
    gW := 1#16, gH := 1#16, gCnt := 1#32, nrec := 1#16, recs := [(0, ⟨0#32, 1#16, 1#16, 0#16, 0#16, 1#16⟩)]
    output := [⟨.ok, 0#128⟩, ⟨.ok, 0#128⟩, ⟨.ok, 0#128⟩] }

theorem oneUnit_exec : execAll ([0x5A#8].map .enc ++ [.commit]) (ready .eight) = .next oneUnit :=
  (execAll_cons [.commit] oneByte_exec).trans rfl

/-- A glyph of one pixel opened at depth 8. -/
def glyphOpened : State :=
  { ready .eight with gopen := true, gW := 1#16, gH := 1#16, output := [⟨.ok, 0#128⟩] }

/-- The same with its sample 0x5A. -/
def glyphFilled : State :=
  { glyphOpened with gCnt := 1#32, len := 1#32, bs := [(0, 0x5A#8)], output := [⟨.ok, 0#128⟩, ⟨.ok, 0#128⟩] }

theorem glyphOpened_exec : exec (.gbegin 1#16 1#16) (ready .eight) = .next glyphOpened := by
  show gbeginAt Config.params 1#16 1#16 (ready .eight) = _
  rw [gbeginAt, whenReady_ready (d := .eight) rfl rfl, if_neg (by decide), if_neg (by decide),
    if_neg (show ¬ (ready .eight).recFull Config.params from zero_ne_recCap)]
  rfl

theorem glyphFilled_exec : exec (.enc 0x5A#8) glyphOpened = .next glyphFilled := by
  show encAt Config.params 0x5A#8 glyphOpened = _
  rw [encAt, whenReady_ready (d := .eight) rfl rfl, if_neg (by decide), if_neg fun e => zero_ne_bsCap e.2]
  rfl

theorem oneGlyph_exec :
    execAll (.gbegin 1#16 1#16 :: [0x5A#8].map .enc ++ [.gend 0#16 0#16 0#16]) (ready .eight) = .next oneGlyph :=
  (execAll_cons _ glyphOpened_exec).trans ((execAll_cons _ glyphFilled_exec).trans rfl)

/-- The byte 0x5A encoded, flushed and read back at once: by `COMMIT`, and by `GEND`. -/
theorem test_witness_RoundTripLaw :
    ((ready .eight).Inv Config.params ∧ (ready .eight).fault = .ok ∧ (ready .eight).depth = .configured .eight
      ∧ (ready .eight).cur = 0#4 ∧ (ready .eight).gopen = false
      ∧ (ready .eight).len.toNat + packedLength Depth.eight.bits [0x5A#8].length ≤ Config.params.bsCap)
    ∧ (oneUnit.fault = .ok ∧ oneUnit.depth = .configured .eight
      ∧ execAll ([0x5A#8].map .enc ++ [.commit]) (ready .eight) = .next oneUnit
      ∧ oneUnit.len.toNat ≤ oneUnit.len.toNat
      ∧ ∀ a, (ready .eight).len.toNat ≤ a → a < oneUnit.len.toNat →
          Memory.read oneUnit.bs a = Memory.read oneUnit.bs a)
    ∧ oneGlyph.fault = .ok ∧ oneGlyph.depth = .configured .eight
      ∧ [0x5A#8].length = (1#16).toNat * (1#16).toNat ∧ (ready .eight).nrec.toNat ≠ Config.params.recCap
      ∧ 1 - (0#16).toInt ≤ 32767
      ∧ execAll (.gbegin 1#16 1#16 :: [0x5A#8].map .enc ++ [.gend 0#16 0#16 0#16]) (ready .eight) = .next oneGlyph
      ∧ oneGlyph.len.toNat ≤ oneGlyph.len.toNat
      ∧ ∀ a, (ready .eight).len.toNat ≤ a → a < oneGlyph.len.toNat →
          Memory.read oneGlyph.bs a = Memory.read oneGlyph.bs a :=
  ⟨⟨ready_inv _, rfl, rfl, rfl, rfl, Config.params.bsCap_pos⟩,
    ⟨rfl, rfl, oneUnit_exec, Nat.le_refl _, fun _ _ _ => rfl⟩,
    rfl, rfl, rfl, zero_ne_recCap, by decide, oneGlyph_exec, Nat.le_refl _, fun _ _ _ => rfl⟩

theorem ready_offsetLaw (d : Depth) : (ready d).OffsetLaw :=
  ⟨fun i k r h => (by cases h), fun h => (by cases h), fun _ => ⟨rfl, rfl⟩⟩

/-- A command that is no `ENC`, one that is, inside a glyph, and a `CFG`. -/
theorem test_witness_OffsetLawIsKept :
    ((ready .two).Inv Config.params ∧ (ready .two).OffsetLaw
      ∧ ((∃ x, Instr.commit = .enc x) → (ready .two).gopen = true)
      ∧ exec .commit (ready .two) = .next { ready .two with output := (ready .two).output ++ [⟨.ok, 0#128⟩] })
    ∧ Depth.ofField 4#4 = some .four
    ∧ exec (.cfg 4#4) (ready .two) = .next { ready .four with output := [⟨.ok, 0#128⟩] } :=
  ⟨⟨ready_inv _, ready_offsetLaw _, by simp, rfl⟩, rfl, rfl⟩

/-- A glyph of one white pixel. -/
theorem test_witness_HostLoopGlyphNeverFaults :
    let m := Bitmap.mk 1 1 1 [0xFF#8]
    let q := Metrics.mk 1 0 (-32766)
    (ready .eight).Inv Config.params ∧ (ready .eight).runComplete ∧ (ready .eight).depth = .configured .eight
    ∧ glyphCommands .eight m q = some [.gbegin 1#16 1#16, .enc 0xFF#8, .gend 1#16 0#16 0x8002#16]
    ∧ (ready .eight).len.toNat + packedLength Depth.eight.bits (m.width * m.height) ≤ Config.params.bsCap
    ∧ (ready .eight).nrec.toNat ≠ Config.params.recCap ∧ -32766 ≤ q.topBearing :=
  ⟨ready_inv _, ⟨rfl, by decide, rfl, rfl⟩, rfl, by decide, Config.params.bsCap_pos, zero_ne_recCap, by decide⟩

theorem test_witness_QuantiserAndExpander :
    Depth.four ≠ .one ∧ (0x11#8).toNat % expandScale .four = 0 ∧ (0x1F#8).toNat % expandScale .four ≠ 0 := by decide

/-- A complete run, and one that a fault has locked. -/
theorem test_witness_ReadOutReturnsTheAsset :
    (ready .eight).Inv Config.params ∧ (ready .eight).runComplete ∧ State.reset.Inv Config.params
    ∧ ¬ State.reset.runComplete := by
  refine ⟨ready_inv _, by decide, ⟨⟨?_, ?_, ?_, ?_, ?_⟩, ⟨?_, ?_, ?_, ?_⟩, ⟨?_, ?_, rfl, rfl, ?_, ?_, ?_, ?_, ?_⟩, ?_⟩, by decide⟩
  all_goals simp [State.reset]

/-- A font with one glyph, of one white pixel, for the code point 0x41. -/
def oneGlyphFont : Rasteriser where
  glyph _ _ c := if c = 0x41 then some (⟨1, 1, 1, [0xFF#8]⟩, ⟨1, 0, 1⟩) else none
  lineHeight size := size

/-- The run over 0x41 and 0x42 at depth 8, in which 0x42 fails: also the premises of
`ConversionRecordsHoldTheGlyphs`, with the glyph of its record 0 in the theorem after it. -/
theorem test_witness_ConversionRunBuildsTheAsset :
    let n : RunInputs := { fontSize := 12, depth := 8, first := 0x41, last := 0x42 }
    Depth.ofNumber n.depth = some .eight
    ∧ n.conversion (some oneGlyphFont)
        = .ok [.cfg 8#4, .gbegin 1#16 1#16, .enc 0xFF#8, .gend 1#16 0#16 1#16]
    ∧ (((n.glyphs oneGlyphFont .eight).filterMap id).map fun g =>
        packedLength Depth.eight.bits (g.1.width * g.1.height)).sum ≤ Config.params.bsCap
    ∧ (n.recorded oneGlyphFont .eight).length ≤ Config.params.recCap
    ∧ ∀ g ∈ (n.glyphs oneGlyphFont .eight).filterMap id, -32766 ≤ g.2.topBearing :=
  ⟨rfl, rfl, Config.params.bsCap_pos, Config.params.recCap_pos, by decide⟩

theorem test_witness_ConversionRecordsHoldTheGlyphs :
    let n : RunInputs := { fontSize := 12, depth := 8, first := 0x41, last := 0x42 }
    (n.recorded oneGlyphFont .eight)[0]? = some 0x41
    ∧ oneGlyphFont.glyph n.fontSize .eight 0x41 = some (⟨1, 1, 1, [0xFF#8]⟩, ⟨1, 0, 1⟩) := ⟨rfl, rfl⟩

end Sys2Proof.Tests
end

section
/-! Scope of the block (00_scope.md): one step takes one action of the host, every word has an outcome, only `CFG` and
reset change the depth, and what the packer's commands leave unchanged. -/

namespace Sys2Proof.Machine

/-! ### Taking the host's action and decoding the word -/

theorem State.takeAction_of_input {s : State} {a : HostAction} {rest : List HostAction} (h : s.input = a :: rest) :
    s.takeAction = { s with input := rest } := by
  simp [State.takeAction, h]

theorem serveWord_of_decode {run : Instr → State → Host.Outcome State Fault Refusal} {w : BitVec 64} {i : Instr}
    (s : State) (h : decode w = .ok i) : serveWord run w s = run i s := by
  simp [serveWord, h]

theorem serveWord_of_decode_error {run : Instr → State → Host.Outcome State Fault Refusal} {w : BitVec 64}
    {e : DecodeError} (s : State) (h : decode w = .error e) : serveWord run w s = raise .illegal s := by
  simp [serveWord, h]

/-- Settles O7: the word is taken off the host's list and the decoder's command runs. -/
theorem stepRunsTheDecodedCommand : Obligations.StepRunsTheDecodedCommand := by
  intro s w rest i hin hdec
  rw [step_command hin, serveWord_of_decode _ hdec, State.takeAction_of_input hin]

/-- Settles O9: an empty list of actions is the waiting branch of the step (log 3). -/
theorem blockWaitsForTheHost : Obligations.BlockWaitsForTheHost := fun _ => step_idle

/-! ### What a fault leaves unchanged -/

theorem Raised.depth_eq {s t : State} (h : Raised s t) : t.depth = s.depth := by
  obtain ⟨c, -, -, rfl⟩ := h
  rfl

/-! ### Only `CFG` and reset change the depth -/

/-- R22: a command other than `CFG` leaves `DEPTH`. -/
theorem exec_depth {i : Instr} {s t : State} (hi : ∀ d, i ≠ .cfg d) (h : exec i s = .next t) :
    t.depth = s.depth := by
  suffices Raised s t ∨ t.depth = s.depth from this.elim Raised.depth_eq id
  cases i with
  | cfg d => exact absurd rfl (hi d)
  | enc x => exact (encAt_next h).imp_right (by rintro ⟨d, -, -, -, -, rfl⟩; simp)
  | commit => exact (commitAt_next h).imp_right (by rintro ⟨d, -, -, -, -, rfl⟩; simp)
  | seek off => exact (execSeek_next h).imp_right (by rintro ⟨d, -, -, rfl⟩; simp)
  | dec => exact (execDec_next h).imp_right (by rintro ⟨d, b, -, -, -, -, -, rfl⟩; simp)
  | gbegin w k => exact (gbeginAt_next h).imp_right (by rintro ⟨d, -, -, -, -, -, rfl⟩; simp)
  | gend a l k => exact (gendAt_next h).imp_right (by rintro ⟨d, -, -, -, -, -, -, rfl⟩; simp)
  | rdrec idx => exact (execRdrec_next h).imp_right (by rintro ⟨d, r, -, -, -, -, rfl⟩; simp)
  | rdbs a => exact (execRdbs_next h).imp_right (by rintro ⟨d, b, -, -, -, -, rfl⟩; simp)
  | rdstat => exact .inr (by rw [execRdstat_next h]; simp)

/-- Settles O37: of what a step can do, waiting, a fault and every command but `CFG` leave the depth. -/
theorem depthChangesOnlyInCfgAndReset : Obligations.DepthChangesOnlyInCfgAndReset := by
  intro s t h hne
  rcases step_next h with ⟨-, rfl⟩ | ⟨q, rest, hin, -⟩ | ⟨w, rest, -, hr⟩ | ⟨w, rest, i, hin, hdec, hex⟩
  · exact absurd rfl hne
  · exact .inl ⟨q, rest, hin⟩
  · exact absurd hr.depth_eq hne
  · by_cases hi : ∀ d, i ≠ .cfg d
    · exact absurd (exec_depth hi hex) hne
    · push Not at hi
      obtain ⟨d, rfl⟩ := hi
      exact .inr ⟨w, rest, d, hin, hdec⟩

/-! ### Every word has an outcome -/

/-- The outcome of a command that started in s is a next state, with one response more. -/
def Responds (s : State) (o : Host.Outcome State Fault Refusal) : Prop :=
  ∃ t r, o = .next t ∧ t.output = s.output ++ [r]

theorem raise_responds (c : Status) (s : State) : Responds s (raise c s) := ⟨_, _, rfl, rfl⟩

theorem respond_responds {s u : State} (v : BitVec 128) (h : u.output = s.output) : Responds s (respond v u) :=
  ⟨_, ⟨.ok, v⟩, rfl, by simp [h]⟩

/-- The common checks answer, so a command does where its body does (R186). -/
theorem whenReady_responds {s : State} {body : Depth → Host.Outcome State Fault Refusal}
    (h : ∀ d, Responds s (body d)) : Responds s (whenReady s body) := by
  unfold whenReady
  split
  · exact raise_responds _ _
  · split
    · exact raise_responds _ _
    · exact h _

/-- A check that raises a fault answers, so a command does where the rest of it does. -/
theorem ite_raise_responds {s : State} {P : Prop} [Decidable P] {c : Status}
    {rest : Host.Outcome State Fault Refusal} (h : ¬ P → Responds s rest) :
    Responds s (if P then raise c s else rest) := by
  split
  · exact raise_responds _ _
  · exact h ‹_›

theorem execCfg_responds (d : BitVec 4) (s : State) : Responds s (execCfg d s) := by
  unfold execCfg
  split
  · exact raise_responds _ _
  · exact respond_responds _ rfl

theorem encAt_responds (p : Params) (x : BitVec 8) (s : State) : Responds s (encAt p x s) :=
  whenReady_responds fun _ => ite_raise_responds fun _ => ite_raise_responds fun _ => respond_responds _ (by simp)

theorem commitAt_responds (p : Params) (s : State) : Responds s (commitAt p s) :=
  whenReady_responds fun _ => ite_raise_responds fun _ => ite_raise_responds fun _ => respond_responds _ (by simp)

theorem execSeek_responds (off : BitVec 32) (s : State) : Responds s (execSeek off s) :=
  whenReady_responds fun _ => respond_responds _ rfl

theorem gbeginAt_responds (p : Params) (w h : BitVec 16) (s : State) : Responds s (gbeginAt p w h s) :=
  whenReady_responds fun _ => ite_raise_responds fun _ => ite_raise_responds fun _ => ite_raise_responds fun _ =>
    respond_responds _ rfl

theorem gendAt_responds (p : Params) (adv left top : BitVec 16) (s : State) :
    Responds s (gendAt p adv left top s) :=
  whenReady_responds fun _ => ite_raise_responds fun _ => ite_raise_responds fun _ => ite_raise_responds fun _ =>
    ite_raise_responds fun _ => respond_responds _ (by simp)

/-- `DEC` reads only below `LEN`, where every cell has a value (R26, R118). -/
theorem execDec_responds {s : State} (hbs : s.bs.map Prod.fst = List.range s.len.toNat) :
    Responds s (execDec s) := by
  refine whenReady_responds fun _ => ite_raise_responds fun _ => ite_raise_responds fun hlt => ?_
  obtain ⟨b, hb⟩ := Memory.read_below hbs (Nat.lt_of_not_le hlt)
  rw [hb]
  exact respond_responds _ (by simp)

/-- `RDREC` reads only below `NREC`, where every cell has a value (R35, R141). -/
theorem execRdrec_responds {s : State} (idx : BitVec 16) (hrec : s.recs.map Prod.fst = List.range s.nrec.toNat) :
    Responds s (execRdrec idx s) := by
  refine whenReady_responds fun _ => ite_raise_responds fun hlt => ?_
  obtain ⟨r, hr⟩ := Memory.read_below hrec (Nat.lt_of_not_le hlt)
  rw [hr]
  exact respond_responds _ rfl

/-- `RDBS` reads only below `LEN`, where every cell has a value (R26, R150). -/
theorem execRdbs_responds {s : State} (a : BitVec 32) (hbs : s.bs.map Prod.fst = List.range s.len.toNat) :
    Responds s (execRdbs a s) := by
  refine whenReady_responds fun _ => ite_raise_responds fun hlt => ?_
  obtain ⟨b, hb⟩ := Memory.read_below hbs (Nat.lt_of_not_le hlt)
  rw [hb]
  exact respond_responds _ rfl

/-- R4: of the invariants a command needs only that the readable cells of the two stores have values. -/
theorem exec_responds (i : Instr) {s : State} (hbs : s.bs.map Prod.fst = List.range s.len.toNat)
    (hrec : s.recs.map Prod.fst = List.range s.nrec.toNat) : Responds s (exec i s) := by
  cases i with
  | cfg d => exact execCfg_responds d s
  | enc x => exact encAt_responds _ x s
  | commit => exact commitAt_responds _ s
  | seek off => exact execSeek_responds off s
  | dec => exact execDec_responds hbs
  | gbegin w h => exact gbeginAt_responds _ w h s
  | gend adv left top => exact gendAt_responds _ adv left top s
  | rdrec idx => exact execRdrec_responds idx hrec
  | rdbs a => exact execRdbs_responds a hbs
  | rdstat => exact respond_responds _ rfl

theorem serveWord_responds (w : BitVec 64) {s : State} (hbs : s.bs.map Prod.fst = List.range s.len.toNat)
    (hrec : s.recs.map Prod.fst = List.range s.nrec.toNat) : Responds s (serveWord exec w s) := by
  cases hdec : decode w with
  | ok i => rw [serveWord_of_decode s hdec]; exact exec_responds i hbs hrec
  | error e => rw [serveWord_of_decode_error s hdec]; exact raise_responds _ _

/-- Settles O44, by the host's next action: none, a reset, or a word, which gets its response. -/
theorem everyWordHasAnOutcome : Obligations.EveryWordHasAnOutcome := by
  intro s hs
  cases hin : s.input with
  | nil => exact ⟨s, step_idle hin, by simp⟩
  | cons a rest =>
    cases a with
    | reset q => exact ⟨_, step_reset hin, by simp⟩
    | command w =>
      obtain ⟨t, r, ht, hr⟩ := serveWord_responds w (s := s.takeAction) hs.store.bs_cells hs.store.rec_cells
      exact ⟨t, (step_command hin).trans ht, fun _ _ _ => ⟨r, hr⟩⟩

/-! ### What `ENC` and `COMMIT` leave unchanged -/

/-- `ENC` writes a byte only where it completes one, and then the byte at `LEN` (R101). -/
theorem State.read_packSample_bs {s : State} {d : Depth} {a : Nat} (x : BitVec 8)
    (h : 8 ≤ s.cur.toNat + d.bits → a ≠ s.len.toNat) :
    Memory.read (s.packSample d x).bs a = Memory.read s.bs a := by
  rw [State.packSample_bs]
  split
  · exact Memory.read_write_other _ _ (h ‹_›)
  · rfl

/-- A flush writes a byte only where one is pending, and then the byte at `LEN` (R104). -/
theorem State.read_flush_bs {s : State} {a : Nat} (h : s.bytePending → a ≠ s.len.toNat) :
    Memory.read s.flush.bs a = Memory.read s.bs a := by
  rw [State.flush_bs]
  split
  · exact Memory.read_write_other _ _ (h ‹_›)
  · rfl

/-- Settles O32: either command takes a fault, which changes nothing but `FAULT`, or has the effect of `packSample` or
`flush`. -/
theorem packerCommandsFrame : Obligations.PackerCommandsFrame := by
  constructor
  · intro s t x h
    rcases encAt_next h with ⟨c, hc, -, rfl⟩ | ⟨d, -, hd, -, -, rfl⟩
    · simp [hc]
    · have hbs : ∀ a, (∀ e, s.depth = .configured e → 8 ≤ s.cur.toNat + e.bits → a ≠ s.len.toNat) →
          Memory.read (s.packSample d x).bs a = Memory.read s.bs a :=
        fun a ha => State.read_packSample_bs x (ha d hd)
      simpa +contextual [-State.packSample_bs] using hbs
  · intro s t h
    rcases commitAt_next h with ⟨c, hc, -, rfl⟩ | ⟨d, -, -, -, -, rfl⟩
    · simp [hc]
    · have hbs : ∀ a, (s.cur ≠ 0#4 → a ≠ s.len.toNat) → Memory.read s.flush.bs a = Memory.read s.bs a :=
        fun a ha => State.read_flush_bs ha
      simpa [-State.flush_bs] using hbs

end Sys2Proof.Machine
end

section
/-! The state of the block (10_state.md): reset, what every step keeps (R38 to R40), what `SEEK`, `DEC`, `GBEGIN` and
`GEND` leave unchanged, and that the host's side of the interface decides nothing. -/

namespace Sys2Proof.Machine

/-! ### What a step can do, said once for every invariant -/

/-- What each command that ends `OK` does to the state before it answers, with what the invariants need of its checks
(R186). -/
inductive Effect (p : Params) (s : State) : Instr → State → Prop
  | cfg {f : BitVec 4} {d : Depth} (hd : Depth.ofField f = some d) : Effect p s (.cfg f) (s.startRun d)
  | enc {d : Depth} {x : BitVec 8} (hd : s.depth = .configured d) (hcnt : ¬ s.glyphFull)
      (hcap : ¬ (s.cur.toNat + d.bits = 8 ∧ s.bsFull p)) : Effect p s (.enc x) (s.packSample d x)
  | commit {d : Depth} (hd : s.depth = .configured d) (hg : s.gopen = false)
      (hcap : ¬ (s.bytePending ∧ s.bsFull p)) : Effect p s .commit s.flush
  | seek {d : Depth} {off : BitVec 32} (hd : s.depth = .configured d) : Effect p s (.seek off) (s.seekTo off)
  | dec {d : Depth} (hd : s.depth = .configured d) (hv : s.uvalid = true) (hlt : s.uptr.toNat < s.len.toNat) :
      Effect p s .dec (s.nextLane d)
  | gbegin {d : Depth} {w h : BitVec 16} (hd : s.depth = .configured d) (hg : s.gopen = false) (hcur : s.cur = 0#4)
      (hcap : ¬ s.recFull p) : Effect p s (.gbegin w h) (s.openGlyph w h)
  | gend {d : Depth} {adv left top : BitVec 16} (hd : s.depth = .configured d) (hg : s.gopen = true)
      (hcnt : s.gCnt.toNat = s.glyphSize) (htop : yOffsetOf top ≤ 32767) (hcap : ¬ (s.bytePending ∧ s.bsFull p)) :
      Effect p s (.gend adv left top) (s.flush.appendRecord (s.glyphRecord adv left top))
  | rdrec {idx : BitVec 16} : Effect p s (.rdrec idx) s
  | rdbs {a : BitVec 32} : Effect p s (.rdbs a) s
  | rdstat : Effect p s .rdstat s

/-- If a command answers a next state, it took a fault, or it had its effect and answered `OK`. -/
theorem execAt_next {p : Params} {i : Instr} {s t : State} (h : execAt p i s = .next t) :
    Raised s t ∨ ∃ u v, Effect p s i u ∧ t = u.answer .ok v := by
  cases i with
  | cfg f => exact (execCfg_next h).imp_right fun ⟨_, hd, ht⟩ => ⟨_, _, .cfg hd, ht⟩
  | enc x => exact (encAt_next h).imp_right fun ⟨_, _, hd, hg, hc, ht⟩ => ⟨_, _, .enc hd hg hc, ht⟩
  | commit => exact (commitAt_next h).imp_right fun ⟨_, _, hd, hg, hc, ht⟩ => ⟨_, _, .commit hd hg hc, ht⟩
  | seek off => exact (execSeek_next h).imp_right fun ⟨_, _, hd, ht⟩ => ⟨_, _, .seek hd, ht⟩
  | dec => exact (execDec_next h).imp_right fun ⟨_, _, _, hd, hv, hlt, _, ht⟩ => ⟨_, _, .dec hd hv hlt, ht⟩
  | gbegin w k =>
    exact (gbeginAt_next h).imp_right fun ⟨_, _, hd, hg, hcur, hc, ht⟩ => ⟨_, _, .gbegin hd hg hcur hc, ht⟩
  | gend a l k =>
    exact (gendAt_next h).imp_right fun ⟨_, _, hd, hg, hcnt, htop, hc, ht⟩ => ⟨_, _, .gend hd hg hcnt htop hc, ht⟩
  | rdrec idx => exact (execRdrec_next h).imp_right fun ⟨_, _, _, _, _, _, ht⟩ => ⟨_, _, .rdrec, ht⟩
  | rdbs a => exact (execRdbs_next h).imp_right fun ⟨_, _, _, _, _, _, ht⟩ => ⟨_, _, .rdbs, ht⟩
  | rdstat => exact .inr ⟨_, _, .rdstat, execRdstat_next h⟩

/-- The property outlives what a fault, a response and the taking of an action change: the interface (logs 2 and 3),
and `FAULT`, which never takes `F_LOCKED` (R181). -/
def OutlivesFaults (P : State → Prop) : Prop :=
  ∀ s c inp out, (c = .locked → s.fault = .locked) → P s → P { s with fault := c, input := inp, output := out }

/-- R181: `F_LOCKED`, raised in a locked block only, does not replace the fault that locked it. -/
theorem OutlivesFaults.of_raised {P : State → Prop} (hP : OutlivesFaults P) {s t : State} (hs : P s)
    (h : Raised s t) : P t := by
  obtain ⟨c, -, hlocked, rfl⟩ := h
  refine hP s _ _ _ ?_ hs
  rw [State.recordFault_fault]
  split
  · exact id
  · exact fun hc => absurd (hlocked hc) ‹_›

theorem OutlivesFaults.of_answer {P : State → Prop} (hP : OutlivesFaults P) {s : State} (hs : P s) (st : Status)
    (v : BitVec 128) : P (s.answer st v) := hP s _ _ _ id hs

theorem OutlivesFaults.of_takeAction {P : State → Prop} (hP : OutlivesFaults P) {s : State} (hs : P s) :
    P s.takeAction := hP s _ _ _ id hs

/-- A property that outlives faults and that every effect keeps is kept by every command. -/
theorem execAt_keeps {P : State → Prop} {p : Params} (hP : OutlivesFaults P)
    (heff : ∀ i s u, P s → Effect p s i u → P u) {i : Instr} {s t : State} (hs : P s) (h : execAt p i s = .next t) :
    P t := by
  rcases execAt_next h with hr | ⟨u, v, hu, rfl⟩
  · exact hP.of_raised hs hr
  · exact hP.of_answer (heff i s u hs hu) _ _

/-- R3, R42: such a property, if reset gives it, is kept by every step. -/
theorem step_keeps {P : State → Prop} (hP : OutlivesFaults P) (hreset : P State.reset)
    (heff : ∀ i s u, P s → Effect Config.params s i u → P u) {s t : State} (hs : P s) (h : step s = .next t) :
    P t := by
  rcases step_next h with ⟨-, rfl⟩ | ⟨q, rest, -, rfl⟩ | ⟨w, rest, -, hr⟩ | ⟨w, rest, i, -, -, hex⟩
  · exact hs
  · exact hP State.reset _ _ _ id hreset
  · exact hP.of_raised (hP.of_takeAction hs) hr
  · exact execAt_keeps hP heff (hP.of_takeAction hs) (exec_eq_execAt i _ ▸ hex)

/-! ### Reset -/

/-- Settles O11: the reset column of R44, the stores by `Memory.read_nil`. -/
theorem resetStateIsAllZero : Obligations.ResetStateIsAllZero := by
  simp [Obligations.ResetStateIsAllZero, State.reset]

/-- Settles O10: a reset is the host's whole action, whatever word it finds in flight. -/
theorem hostResetClearsTheBlock : Obligations.HostResetClearsTheBlock := by
  intro s lost rest hin
  exact ⟨_, step_reset hin, by simp [hin]⟩

theorem State.reset_packInv : State.reset.PackInv := by constructor <;> simp [State.reset]

theorem State.reset_unpkInv : State.reset.UnpkInv := by constructor <;> simp [State.reset]

theorem State.reset_storeInv (p : Params) : State.reset.StoreInv p := by constructor <;> simp [State.reset]

/-- R38 to R40, R43, at every capacity. -/
theorem State.reset_inv (p : Params) : State.reset.Inv p :=
  ⟨State.reset_packInv, State.reset_unpkInv, State.reset_storeInv p, by simp [State.reset]⟩

/-- Settles O43: the reset state meets the invariants at every capacity, so at this block's. -/
theorem resetMeetsInvariants : Obligations.ResetMeetsInvariants := State.reset_inv Config.params

/-! ### The stores' canonical form -/

/-- Both stores are in canonical form (log 5). -/
def State.StoresWf (s : State) : Prop := Memory.wf s.bs ∧ Memory.wf s.recs

theorem State.packSample_bs_wf {s : State} (d : Depth) (x : BitVec 8) (h : Memory.wf s.bs) :
    Memory.wf (s.packSample d x).bs := by
  rw [State.packSample_bs]
  split
  · exact Memory.write_wf _ _ h
  · exact h

theorem State.flush_bs_wf {s : State} (h : Memory.wf s.bs) : Memory.wf s.flush.bs := by
  rw [State.flush_bs]
  split
  · exact Memory.write_wf _ _ h
  · exact h

/-- The stores are written by `Memory.write` only, and emptied by `CFG`. -/
theorem Effect.storesWf {p : Params} {i : Instr} {s u : State} (h : s.StoresWf) (he : Effect p s i u) :
    u.StoresWf := by
  obtain ⟨hbs, hrecs⟩ := h
  cases he with
  | cfg hd => exact ⟨Memory.nil_wf, Memory.nil_wf⟩
  | enc hd hcnt hcap => exact ⟨State.packSample_bs_wf _ _ hbs, by simpa using hrecs⟩
  | commit hd hg hcap => exact ⟨State.flush_bs_wf hbs, by simpa using hrecs⟩
  | seek hd => exact ⟨hbs, hrecs⟩
  | dec hd hv hlt => exact ⟨by simpa using hbs, by simpa using hrecs⟩
  | gbegin hd hg hcur hcap => exact ⟨hbs, hrecs⟩
  | gend hd hg hcnt htop hcap => exact ⟨State.flush_bs_wf hbs, Memory.write_wf _ _ (by simpa using hrecs)⟩
  | rdrec | rdbs | rdstat => exact ⟨hbs, hrecs⟩

/-- Settles O39: every effect keeps the form, and reset has it. -/
theorem stepKeepsStoresCanonical : Obligations.StepKeepsStoresCanonical := fun _ _ hbs hrecs h =>
  step_keeps (P := State.StoresWf) (fun _ _ _ _ _ hs => hs) ⟨Memory.nil_wf, Memory.nil_wf⟩
    (fun _ _ _ => Effect.storesWf) ⟨hbs, hrecs⟩ h

/-! ### The byte a sample is packed into -/

/-- `mask(DEPTH)` has exactly its low `DEPTH` bits set (R100). -/
theorem Depth.mask_getLsbD (d : Depth) (j : Nat) : d.mask.getLsbD j = decide (j < d.bits) := by
  rw [Depth.mask, BitVec.getLsbD_ofNat, Nat.testBit_two_pow_sub_one, ← Bool.decide_and]
  exact decide_eq_decide.mpr ⟨And.right, fun h => ⟨Nat.lt_of_lt_of_le h d.bits_le, h⟩⟩

/-- A sample placed at a bit position fills its lane with its low `DEPTH` bits and nothing else (R54). -/
theorem placeSample_getLsbD (d : Depth) (x : BitVec 8) (c : Nat) {j : Nat} (hj : j < 8) :
    (placeSample d x c).getLsbD j = (decide (c ≤ j) && decide (j < c + d.bits) && x.getLsbD (j - c)) := by
  rw [placeSample, BitVec.getLsbD_shiftLeft, maskSample, BitVec.getLsbD_and, Depth.mask_getLsbD]
  by_cases hc : j < c
  · simp [hc]
  · have hlane : j - c < d.bits ↔ j < c + d.bits := by omega
    simp [hj, hc, Nat.le_of_not_lt hc, hlane, Bool.and_comm]

/-- R38(c), bit by bit. -/
theorem getLsbD_of_toNat_lt {a : BitVec 8} {c j : Nat} (h : a.toNat < 2 ^ c) (hj : c ≤ j) : a.getLsbD j = false :=
  Nat.testBit_lt_two_pow (Nat.lt_of_lt_of_le h (Nat.pow_le_pow_right (by omega) hj))

/-- The byte after a sample is packed at a cursor above which it was clear: below the cursor as before, in the lane the
sample, above it clear (R54, R101). -/
theorem packedByte_getLsbD {a : BitVec 8} {c : Nat} (h : a.toNat < 2 ^ c) (d : Depth) (x : BitVec 8) {j : Nat}
    (hj : j < 8) : (a ||| placeSample d x c).getLsbD j =
      if j < c then a.getLsbD j else if j < c + d.bits then x.getLsbD (j - c) else false := by
  rw [BitVec.getLsbD_or, placeSample_getLsbD d x c hj]
  by_cases hc : j < c
  · simp [hc, show ¬ c ≤ j by omega]
  · simp [hc, Nat.le_of_not_lt hc, getLsbD_of_toNat_lt h (Nat.le_of_not_lt hc)]

/-- R38(c) after a sample is packed. -/
theorem packedByte_lt {a : BitVec 8} {c : Nat} (h : a.toNat < 2 ^ c) (d : Depth) (x : BitVec 8) :
    (a ||| placeSample d x c).toNat < 2 ^ (c + d.bits) := by
  refine Nat.lt_pow_two_of_testBit _ fun j hj => ?_
  by_cases hj8 : j < 8
  · exact (packedByte_getLsbD h d x hj8).trans (by simp [show ¬ j < c by omega, show ¬ j < c + d.bits by omega])
  · exact BitVec.getLsbD_of_ge _ _ (by omega)

/-! ### The packer's invariants -/

/-- "`CUR + DEPTH` is at most 8" (R38). -/
theorem State.PackInv.room {s : State} {d : Depth} (h : s.PackInv) (hd : s.depth = .configured d) :
    s.cur.toNat + d.bits ≤ 8 :=
  d.lane_room (h.cur_lane d hd) h.cur_lt

/-- Nothing pending, nothing in `ACC` (R38(c)). -/
theorem State.PackInv.acc_zero {s : State} (h : s.PackInv) (hcur : s.cur = 0#4) : s.acc = 0#8 := by
  have := h.acc_clear
  rw [hcur] at this
  exact BitVec.eq_of_toNat_eq (by simpa using this)

/-- An empty packer meets R38 at every depth. -/
theorem State.packInv_of_empty {s : State} (hacc : s.acc = 0#8) (hcur : s.cur = 0#4) : s.PackInv where
  cur_lt := by simp [hcur]
  cur_lane := by simp [hcur]
  cur_zero _ := hcur
  acc_clear := by simp [hcur, hacc]
  eight_zero _ := hcur

/-- R38 speaks of `DEPTH`, `ACC` and `CUR` only. -/
theorem State.PackInv.congr {s u : State} (h : s.PackInv) (hd : u.depth = s.depth) (hacc : u.acc = s.acc)
    (hcur : u.cur = s.cur) : u.PackInv := by
  obtain ⟨h1, h2, h3, h4, h5⟩ := h
  constructor <;> simpa only [hd, hacc, hcur]

theorem State.PackInv.flush {s : State} (h : s.PackInv) : s.flush.PackInv := by
  refine State.packInv_of_empty ?_ s.flush_cur
  rw [State.flush_acc]
  split
  · rfl
  · exact h.acc_zero (by simpa using ‹¬ s.bytePending›)

/-- R101: the byte is complete and the packer empty, or the cursor stands at the next lane. -/
theorem State.PackInv.packSample {s : State} {d : Depth} (h : s.PackInv) (hd : s.depth = .configured d)
    (x : BitVec 8) : (s.packSample d x).PackInv := by
  by_cases hfull : 8 ≤ s.cur.toNat + d.bits
  · exact State.packInv_of_empty (by simp [hfull]) (by simp [hfull])
  · have hcur : (s.packSample d x).cur.toNat = s.cur.toNat + d.bits := by
      rw [State.packSample_cur, if_neg hfull]
      exact Depth.cursor_add d s.cur (by omega)
    have hdep : (s.packSample d x).depth = .configured d := by simpa using hd
    constructor
    case cur_lt => omega
    case cur_lane =>
      intro e he
      obtain rfl : d = e := DepthReg.configured.inj (hdep.symm.trans he)
      exact hcur ▸ Nat.dvd_add (h.cur_lane d hd) (Nat.dvd_refl _)
    case cur_zero => simp [hd]
    case acc_clear =>
      rw [hcur, State.packSample_acc, if_neg hfull]
      exact packedByte_lt h.acc_clear d x
    case eight_zero =>
      intro he
      obtain rfl : d = .eight := DepthReg.configured.inj (hdep.symm.trans he)
      exact absurd (Nat.le_add_left 8 _) hfull

/-- R38 after every command. -/
theorem Effect.packInv {p : Params} {i : Instr} {s u : State} (h : s.PackInv) (he : Effect p s i u) : u.PackInv := by
  cases he with
  | cfg hd => exact State.packInv_of_empty rfl rfl
  | enc hd hcnt hcap => exact h.packSample hd _
  | commit hd hg hcap => exact h.flush
  | seek hd => exact h.congr rfl rfl rfl
  | dec hd hv hlt => exact h.congr (by simp) (by simp) (by simp)
  | gbegin hd hg hcur hcap => exact h.congr rfl rfl rfl
  | gend hd hg hcnt htop hcap => exact h.flush.congr rfl rfl rfl
  | rdrec | rdbs | rdstat => exact h

theorem State.PackInv.outlivesFaults : OutlivesFaults State.PackInv := fun _ _ _ _ _ h => h.congr rfl rfl rfl

/-- Settles O40: every effect keeps R38, reset has it, and its consequences follow from R38(a) to (c). -/
theorem stepKeepsPackerInvariants : Obligations.StepKeepsPackerInvariants :=
  ⟨fun _ _ => step_keeps State.PackInv.outlivesFaults State.reset_packInv fun _ _ _ => Effect.packInv,
    State.reset_packInv,
    fun _ _ h hd => ⟨h.room hd, fun _ => getLsbD_of_toNat_lt h.acc_clear, h.acc_zero⟩⟩

/-- Settles O21: the byte is `ACC` with the sample placed at `CUR`, pending or appended. -/
theorem encFillsItsLane : Obligations.EncFillsItsLane := by
  intro s t d x hinv hf hd hex hok
  rcases encAt_next hex with ⟨c, hc, -, rfl⟩ | ⟨e, -, he, -, -, rfl⟩
  · exact absurd hok (by simpa [hf] using hc)
  · obtain rfl : d = e := by simpa [hd] using he
    refine ⟨s.acc ||| placeSample d x s.cur.toNat, fun hlt => ?_, fun hfull => ?_,
      fun j hj => packedByte_getLsbD hinv.acc_clear d x hj⟩
    · simp [Nat.not_le.mpr hlt, Depth.cursor_add d s.cur hlt]
    · simp [Nat.le_of_not_lt hfull]

/-! ### The unpacker's invariants -/

/-- R39 speaks of `DEPTH`, `UVALID`, `UPTR` and `UCUR` only. -/
theorem State.UnpkInv.congr {s u : State} (h : s.UnpkInv) (hd : u.depth = s.depth) (hv : u.uvalid = s.uvalid)
    (hptr : u.uptr = s.uptr) (hcur : u.ucur = s.ucur) : u.UnpkInv := by
  obtain ⟨h1, h2, h3, h4⟩ := h
  constructor <;> simpa only [hd, hv, hptr, hcur]

/-- No decoder, at every depth (R43). -/
theorem State.unpkInv_of_none {s : State} (hv : s.uvalid = false) (hptr : s.uptr = 0#32) (hcur : s.ucur = 0#4) :
    s.UnpkInv where
  ucur_lt := by simp [hcur]
  ucur_lane := by simp [hcur]
  unconfigured _ := ⟨hcur, hv⟩
  no_decoder _ := ⟨hptr, hcur⟩

/-- R116: a decoder at the first lane of a byte. -/
theorem State.unpkInv_seekTo {s : State} {d : Depth} (hd : s.depth = .configured d) (off : BitVec 32) :
    (s.seekTo off).UnpkInv where
  ucur_lt := by simp
  ucur_lane := by simp
  unconfigured := by simp [hd]
  no_decoder := by simp

/-- R118: the cursor stands at the next lane, or at the next byte's first. -/
theorem State.UnpkInv.nextLane {s : State} {d : Depth} (h : s.UnpkInv) (hd : s.depth = .configured d)
    (hv : s.uvalid = true) : (s.nextLane d).UnpkInv := by
  have hcur : (s.nextLane d).ucur.toNat < 8 ∧ d.bits ∣ (s.nextLane d).ucur.toNat := by
    rw [State.nextLane_ucur]
    split
    · simp
    · rw [Depth.cursor_add d s.ucur (by omega)]
      exact ⟨by omega, Nat.dvd_add (h.ucur_lane d hd) (Nat.dvd_refl _)⟩
  constructor
  case ucur_lt => exact hcur.1
  case ucur_lane =>
    intro e he
    obtain rfl : d = e := by simpa [hd] using he
    exact hcur.2
  case unconfigured => simp [hd]
  case no_decoder => simp [hv]

/-- R39 after every command. -/
theorem Effect.unpkInv {p : Params} {i : Instr} {s u : State} (h : s.UnpkInv) (he : Effect p s i u) : u.UnpkInv := by
  cases he with
  | cfg hd => exact State.unpkInv_of_none rfl rfl rfl
  | enc hd hcnt hcap => exact h.congr (by simp) (by simp) (by simp) (by simp)
  | commit hd hg hcap => exact h.congr (by simp) (by simp) (by simp) (by simp)
  | seek hd => exact State.unpkInv_seekTo hd _
  | dec hd hv hlt => exact h.nextLane hd hv
  | gbegin hd hg hcur hcap => exact h.congr rfl rfl rfl rfl
  | gend hd hg hcnt htop hcap => exact h.congr (by simp) (by simp) (by simp) (by simp)
  | rdrec | rdbs | rdstat => exact h

theorem State.UnpkInv.outlivesFaults : OutlivesFaults State.UnpkInv := fun _ _ _ _ _ h => h.congr rfl rfl rfl rfl

/-- Settles O41: every effect keeps R39, and reset has it. -/
theorem stepKeepsUnpackerInvariants : Obligations.StepKeepsUnpackerInvariants :=
  ⟨fun _ _ => step_keeps State.UnpkInv.outlivesFaults State.reset_unpkInv fun _ _ _ => Effect.unpkInv,
    State.reset_unpkInv⟩

/-! ### The stores' and the formatter's invariants -/

/-- R40(b) for the open glyph. -/
def State.OpenGlyphInv (p : Params) (s : State) : Prop :=
  s.gOff.toNat ≤ s.len.toNat ∧ s.gCnt.toNat ≤ s.glyphSize ∧ s.nrec.toNat < p.recCap
    ∧ s.len.toNat = s.gOff.toNat + s.gCnt.toNat * s.depth.bits / 8
    ∧ s.cur.toNat = s.gCnt.toNat * s.depth.bits % 8

/-- The bitstream of u is that of s or a longer one, and the records and the open glyph's place are those of s. -/
structure State.Grown (p : Params) (s u : State) : Prop where
  len_ge : s.len.toNat ≤ u.len.toNat
  len_le : u.len.toNat ≤ p.bsCap
  bs_cells : u.bs.map Prod.fst = List.range u.len.toNat
  depth_eq : u.depth = s.depth
  nrec_eq : u.nrec = s.nrec
  recs_eq : u.recs = s.recs
  gopen_eq : u.gopen = s.gopen
  gOff_eq : u.gOff = s.gOff

/-- R52: a byte appended to a store that is not full.  `LEN` does not wrap (log 13). -/
theorem State.StoreInv.len_add_one {p : Params} {s : State} (h : s.StoreInv p) (hcap : ¬ s.bsFull p) :
    (s.len + 1#32).toNat = s.len.toNat + 1 ∧ s.len.toNat + 1 ≤ p.bsCap := by
  have hlen := h.len_le
  have hmax := p.bsCap_le
  rw [BitVec.toNat_add]
  simp only [State.bsFull] at hcap
  constructor <;> simp <;> omega

theorem State.StoreInv.grown_refl {p : Params} {s : State} (h : s.StoreInv p) : s.Grown p s :=
  ⟨le_rfl, h.len_le, h.bs_cells, rfl, rfl, rfl, rfl, rfl⟩

theorem State.StoreInv.appendByte_grown {p : Params} {s : State} (h : s.StoreInv p) (hcap : ¬ s.bsFull p)
    (v : BitVec 8) : s.Grown p (s.appendByte v) := by
  obtain ⟨hlen, hroom⟩ := h.len_add_one hcap
  refine ⟨?_, ?_, ?_, rfl, rfl, rfl, rfl, rfl⟩ <;> simp only [State.appendByte_len, State.appendByte_bs, hlen]
  · omega
  · exact hroom
  · exact Memory.cells_append v h.bs_cells

/-- The packer's registers and the glyph's count are no part of it. -/
theorem State.Grown.withPacker {p : Params} {s u : State} (h : s.Grown p u) (a : BitVec 8) (c : BitVec 4)
    (n : BitVec 32) : s.Grown p { u with acc := a, cur := c, gCnt := n } := by
  obtain ⟨h1, h2, h3, h4, h5, h6, h7, h8⟩ := h
  exact ⟨h1, h2, h3, h4, h5, h6, h7, h8⟩

/-- R104. -/
theorem State.StoreInv.flush_grown {p : Params} {s : State} (h : s.StoreInv p)
    (hcap : ¬ (s.bytePending ∧ s.bsFull p)) : s.Grown p s.flush := by
  unfold State.flush
  split
  · exact (h.appendByte_grown (fun hfull => hcap ⟨‹_›, hfull⟩) _).withPacker _ _ _
  · exact h.grown_refl

/-- R101, R102: a byte is completed only at bit 8, which `ENC` has found room for. -/
theorem State.StoreInv.packSample_grown {p : Params} {s : State} {d : Depth} (h : s.StoreInv p)
    (hroom : s.cur.toNat + d.bits ≤ 8) (hcap : ¬ (s.cur.toNat + d.bits = 8 ∧ s.bsFull p)) (x : BitVec 8) :
    s.Grown p (s.packSample d x) := by
  unfold State.packSample
  split
  · exact (h.appendByte_grown (fun hfull => hcap ⟨by omega, hfull⟩) _).withPacker _ _ _
  · exact h.grown_refl.withPacker _ _ _

/-- A longer bitstream keeps R40, but for the open glyph's clause. -/
theorem State.StoreInv.of_grown {p : Params} {s u : State} {d : Depth} (h : s.StoreInv p) (hu : s.Grown p u)
    (hd : s.depth = .configured d) (hglyph : u.gopen = true → u.OpenGlyphInv p) : u.StoreInv p := by
  obtain ⟨hge, hle, hcells, hdep, hnrec, hrecs, hgopen, hgOff⟩ := hu
  constructor
  case len_le => exact hle
  case nrec_le => exact hnrec ▸ h.nrec_le
  case bs_cells => exact hcells
  case rec_cells => rw [hrecs, hnrec]; exact h.rec_cells
  case glyph => exact hglyph
  case rec_end =>
    rw [hrecs, hdep]
    exact fun i r hr => (h.rec_end i r hr).imp (·.trans hge) (·.trans hge)
  case recs_before_glyph => rw [hgopen, hrecs, hdep, hgOff]; exact h.recs_before_glyph
  case rec_chain => rw [hrecs, hdep]; exact h.rec_chain
  case unconfigured => simp [hdep, hd]

/-- R133: the glyph's sample total fits `G_CNT`. -/
theorem State.glyphSize_lt (s : State) : s.glyphSize < 2 ^ 32 :=
  (Nat.mul_lt_mul'' s.gW.isLt s.gH.isLt).trans_eq (by norm_num)

/-- R40(b) after one more sample of the glyph: the bytes completed and the bits pending are those of one sample more. -/
theorem State.StoreInv.packSample_openGlyphInv {p : Params} {s : State} {d : Depth} (h : s.StoreInv p)
    (hd : s.depth = .configured d) (hroom : s.cur.toNat + d.bits ≤ 8) (hcnt : ¬ s.glyphFull)
    (hcap : ¬ (s.cur.toNat + d.bits = 8 ∧ s.bsFull p)) (x : BitVec 8) (hg : (s.packSample d x).gopen = true) :
    (s.packSample d x).OpenGlyphInv p := by
  rw [State.packSample_gopen] at hg
  obtain ⟨hoff, hle, hnrec, hlen, hcur⟩ := h.glyph hg
  have hlt : s.gCnt.toNat < s.glyphSize := Nat.lt_of_le_of_ne hle fun he => hcnt ⟨hg, he⟩
  have hcount : (s.gCnt + 1#32).toNat = s.gCnt.toNat + 1 := by
    have := s.glyphSize_lt
    rw [BitVec.toNat_add]
    exact Nat.mod_eq_of_lt (by simp; omega)
  have hbits : s.depth.bits = d.bits := by rw [hd]; rfl
  rw [hbits] at hlen hcur
  unfold State.OpenGlyphInv State.glyphSize
  simp only [State.packSample_gOff, State.packSample_len, State.packSample_gCnt, State.packSample_gW,
    State.packSample_gH, State.packSample_nrec, State.packSample_depth, State.packSample_cur, hg, if_true, hcount,
    hbits, Nat.add_mul, Nat.one_mul]
  generalize s.gCnt.toNat * d.bits = n at *
  by_cases hfull : 8 ≤ s.cur.toNat + d.bits
  · have hnext := (h.len_add_one fun hf => hcap ⟨by omega, hf⟩).1
    rw [if_pos hfull, if_pos hfull, hnext]
    refine ⟨by omega, hlt, hnrec, by omega, ?_⟩
    show 0 = _
    omega
  · rw [if_neg hfull, if_neg hfull, Depth.cursor_add d s.cur (by omega)]
    exact ⟨hoff, hlt, hnrec, by omega, by omega⟩

/-- R131: a glyph opened at `LEN` with nothing pending, after the end of every record's glyph. -/
theorem State.StoreInv.openGlyph {p : Params} {s : State} {d : Depth} (h : s.StoreInv p)
    (hd : s.depth = .configured d) (hcur : s.cur = 0#4) (hcap : ¬ s.recFull p) (w k : BitVec 16) :
    (s.openGlyph w k).StoreInv p where
  len_le := h.len_le
  nrec_le := h.nrec_le
  bs_cells := h.bs_cells
  rec_cells := h.rec_cells
  glyph _ := ⟨le_rfl, Nat.zero_le _, Nat.lt_of_le_of_ne h.nrec_le hcap, by simp, by simp [hcur]⟩
  rec_end := h.rec_end
  recs_before_glyph _ i r hr := (h.rec_end i r hr).2
  rec_chain := h.rec_chain
  unconfigured := by simp [hd]

/-- R108, R134: with all the glyph's samples packed and the pending bits flushed, the bitstream ends where the glyph
does. -/
theorem State.StoreInv.flush_end {p : Params} {s : State} (h : s.StoreInv p) (hg : s.gopen = true)
    (hcnt : s.gCnt.toNat = s.glyphSize) (hcap : ¬ (s.bytePending ∧ s.bsFull p)) :
    s.flush.len.toNat = s.gOff.toNat + packedLength s.depth.bits s.glyphSize := by
  obtain ⟨-, -, -, hlen, hcur⟩ := h.glyph hg
  rw [hcnt] at hlen hcur
  unfold packedLength
  rw [State.flush_len]
  split
  · have hpos : s.cur.toNat ≠ 0 := fun h0 => ‹s.bytePending› (BitVec.eq_of_toNat_eq h0)
    rw [(h.len_add_one fun hfull => hcap ⟨‹_›, hfull⟩).1]
    omega
  · have hzero : s.cur.toNat = 0 := by simpa using congrArg BitVec.toNat (not_not.mp ‹¬ s.bytePending›)
    omega

/-- A cell read after a write is the one written, or one that stood before. -/
theorem Memory.read_write_cases {α : Type} {m : List (Nat × α)} {n a : Nat} {v w : α}
    (h : Memory.read (Memory.write m n v) a = some w) : (a = n ∧ w = v) ∨ (a ≠ n ∧ Memory.read m a = some w) := by
  by_cases ha : a = n
  · subst ha
    rw [Memory.read_write_same] at h
    exact .inl ⟨rfl, (Option.some.inj h).symm⟩
  · exact .inr ⟨ha, by rwa [Memory.read_write_other m v ha] at h⟩

/-- R52: the index after a record that `GBEGIN` has found room for (R40(b)). -/
theorem State.OpenGlyphInv.nrec_add_one {p : Params} {s : State} (h : s.OpenGlyphInv p) :
    (s.nrec + 1#16).toNat = s.nrec.toNat + 1 := by
  obtain ⟨-, -, hlt, -, -⟩ := h
  have := p.recCap_le
  rw [BitVec.toNat_add]
  exact Nat.mod_eq_of_lt (by simp; omega)

/-- R134: the glyph's record lies after those before it and ends with the bitstream. -/
theorem State.StoreInv.closeGlyph {p : Params} {s : State} {d : Depth} (h : s.StoreInv p)
    (hd : s.depth = .configured d) (hg : s.gopen = true) (hcnt : s.gCnt.toNat = s.glyphSize)
    (hcap : ¬ (s.bytePending ∧ s.bsFull p)) (adv left top : BitVec 16) :
    (s.flush.appendRecord (s.glyphRecord adv left top)).StoreInv p := by
  have hglyph : s.OpenGlyphInv p := h.glyph hg
  have hnext := hglyph.nrec_add_one
  have hend : (s.glyphRecord adv left top).endAt s.depth.bits = s.flush.len.toNat := (h.flush_end hg hcnt hcap).symm
  obtain ⟨hoff, -, hnrec, -, -⟩ := hglyph
  obtain ⟨hge, hle, hcells, -, -, -, -, -⟩ := h.flush_grown hcap
  constructor <;> simp only [State.appendRecord_len, State.appendRecord_nrec, State.appendRecord_bs,
    State.appendRecord_recs, State.appendRecord_depth, State.appendRecord_gopen, State.flush_nrec, State.flush_recs,
    State.flush_depth, hnext]
  case len_le => exact hle
  case nrec_le => exact hnrec
  case bs_cells => exact hcells
  case rec_cells => exact Memory.cells_append _ h.rec_cells
  case glyph => simp
  case rec_end =>
    intro i r hr
    rcases Memory.read_write_cases hr with ⟨-, rfl⟩ | ⟨-, hr⟩
    · exact ⟨hoff.trans hge, hend.le⟩
    · exact (h.rec_end i r hr).imp (·.trans hge) (·.trans hge)
  case recs_before_glyph => simp
  case rec_chain =>
    intro i r r' hr hr'
    rcases Memory.read_write_cases hr' with ⟨hi, rfl⟩ | ⟨-, hr'⟩ <;>
      rcases Memory.read_write_cases hr with ⟨hi', -⟩ | ⟨-, hr⟩
    · omega
    · exact h.recs_before_glyph hg i r hr
    · have := Memory.lt_of_read h.rec_cells hr'
      omega
    · exact h.rec_chain i r r' hr hr'
  case unconfigured => simp [hd]

/-- R40 does not speak of the unpacker's registers, `FAULT` or the interface. -/
theorem State.StoreInv.withUnpacker {p : Params} {s : State} (h : s.StoreInv p) (v : Bool) (a : BitVec 32)
    (u : BitVec 4) (c : Status) (inp : List HostAction) (out : List Response) :
    State.StoreInv p { s with uvalid := v, uptr := a, ucur := u, fault := c, input := inp, output := out } := by
  obtain ⟨h1, h2, h3, h4, h5, h6, h7, h8, h9⟩ := h
  exact ⟨h1, h2, h3, h4, h5, h6, h7, h8, h9⟩

/-- An empty run meets R40 (R90). -/
theorem State.startRun_storeInv (p : Params) (d : Depth) (s : State) : (s.startRun d).StoreInv p := by
  constructor <;> simp

/-- R40 after every command; `ENC` needs R38 for it. -/
theorem Effect.storeInv {p : Params} {i : Instr} {s u : State} (hp : s.PackInv) (h : s.StoreInv p)
    (he : Effect p s i u) : u.StoreInv p := by
  cases he with
  | cfg hd => exact State.startRun_storeInv p _ s
  | enc hd hcnt hcap =>
    have hroom := hp.room hd
    exact h.of_grown (h.packSample_grown hroom hcap _) hd (h.packSample_openGlyphInv hd hroom hcnt hcap _)
  | commit hd hg hcap => exact h.of_grown (h.flush_grown hcap) hd (by simp [hg])
  | seek hd => exact h.withUnpacker _ _ _ _ _ _
  | dec hd hv hlt =>
    unfold State.nextLane
    split <;> exact h.withUnpacker _ _ _ _ _ _
  | gbegin hd hg hcur hcap => exact h.openGlyph hd hcur hcap _ _
  | gend hd hg hcnt htop hcap => exact h.closeGlyph hd hg hcnt hcap _ _ _
  | rdrec | rdbs | rdstat => exact h

/-! ### All the invariants -/

/-- An effect leaves `FAULT`, or clears it (R183). -/
theorem Effect.fault_eq {p : Params} {i : Instr} {s u : State} (he : Effect p s i u) :
    u.fault = .ok ∨ u.fault = s.fault := by
  cases he with
  | cfg hd => exact .inl rfl
  | enc | commit | seek | dec | gbegin | gend | rdrec | rdbs | rdstat => exact .inr (by simp)

/-- R38 to R40 and R181 after every command. -/
theorem Effect.inv {p : Params} {i : Instr} {s u : State} (h : s.Inv p) (he : Effect p s i u) : u.Inv p where
  pack := he.packInv h.pack
  unpk := he.unpkInv h.unpk
  store := he.storeInv h.pack h.store
  fault_recorded := by
    rcases he.fault_eq with hf | hf
    · simp [hf]
    · exact hf ▸ h.fault_recorded

theorem State.Inv.outlivesFaults (p : Params) : OutlivesFaults (State.Inv p) := fun s _ _ _ hc h =>
  ⟨State.PackInv.outlivesFaults s _ _ _ hc h.pack, State.UnpkInv.outlivesFaults s _ _ _ hc h.unpk,
    h.store.withUnpacker _ _ _ _ _ _, fun hl => h.fault_recorded (hc hl)⟩

/-- Every command keeps the invariants, at every capacity. -/
theorem execAt_inv {p : Params} {i : Instr} {s t : State} (h : s.Inv p) (hex : execAt p i s = .next t) : t.Inv p :=
  execAt_keeps (State.Inv.outlivesFaults p) (fun _ _ _ => Effect.inv) h hex

/-- Settles O42: every effect keeps the invariants, and reset has them. -/
theorem stepKeepsInvariants : Obligations.StepKeepsInvariants := fun _ _ =>
  step_keeps (State.Inv.outlivesFaults _) (State.reset_inv _) fun _ _ _ => Effect.inv

/-! ### What `SEEK`, `DEC`, `GBEGIN` and `GEND` leave unchanged -/

/-- Settles O33: either command takes a fault, which changes nothing but `FAULT`, or has the effect of `seekTo` or
`nextLane`. -/
theorem unpackerCommandsFrame : Obligations.UnpackerCommandsFrame := by
  rintro i s t (rfl | ⟨off, rfl⟩) h
  · rcases execDec_next h with ⟨c, hc, -, rfl⟩ | ⟨d, b, -, -, -, -, -, rfl⟩
    · simp [hc]
    · simp
  · rcases execSeek_next h with ⟨c, hc, -, rfl⟩ | ⟨d, -, -, rfl⟩
    · simp [hc]
    · simp

/-- Settles O35: a fault changes nothing but `FAULT`, and `openGlyph` only the open glyph's registers. -/
theorem gbeginFrame : Obligations.GbeginFrame := by
  intro s t w k h
  rcases gbeginAt_next h with ⟨c, hc, -, rfl⟩ | ⟨d, -, -, -, -, -, rfl⟩
  · simp [hc]
  · simp

/-- Settles O36: a fault changes nothing but `FAULT`; otherwise the byte is the flush's and the record the one
appended. -/
theorem gendFrame : Obligations.GendFrame := by
  intro s t adv left top h
  rcases gendAt_next h with ⟨c, hc, -, rfl⟩ | ⟨d, -, -, -, -, -, -, rfl⟩
  · simp [hc]
  · have hbs : ∀ a, (s.cur ≠ 0#4 → a ≠ s.len.toNat) → Memory.read s.flush.bs a = Memory.read s.bs a :=
      fun a ha => State.read_flush_bs ha
    have hrecs : ∀ k, k ≠ s.nrec.toNat →
        Memory.read (Memory.write s.recs s.nrec.toNat (s.glyphRecord adv left top)) k = Memory.read s.recs k :=
      fun k hk => Memory.read_write_other _ _ hk
    simpa [-State.flush_bs] using And.intro hbs hrecs

/-! ### The host's side of the interface decides nothing -/

/-- The same block with another list of the host's actions and another list of responses. -/
def State.withInterface (inp : List HostAction) (out : List Response) (s : State) : State :=
  { s with input := inp, output := out }

@[simp] theorem State.withInterface_bs (inp : List HostAction) (out : List Response) (s : State) :
    (s.withInterface inp out).bs = s.bs := rfl
@[simp] theorem State.withInterface_uptr (inp : List HostAction) (out : List Response) (s : State) :
    (s.withInterface inp out).uptr = s.uptr := rfl
@[simp] theorem State.withInterface_recs (inp : List HostAction) (out : List Response) (s : State) :
    (s.withInterface inp out).recs = s.recs := rfl

/-- The outcome o of a command from s is that of o' from s with another interface: the registers and stores are the
same, and the responses the command added. -/
def SameOutcome (inp : List HostAction) (out : List Response) (s : State)
    (o o' : Host.Outcome State Fault Refusal) : Prop :=
  ∀ t, o = .next t → o' = .next (t.withInterface inp (out ++ t.output.drop s.output.length))

/-- A response is added after those there are, whichever they are. -/
theorem State.answer_withInterface (inp : List HostAction) (out : List Response) (st : Status) (v : BitVec 128)
    (u : State) : (u.withInterface inp out).answer st v
      = (u.answer st v).withInterface inp (out ++ (u.answer st v).output.drop u.output.length) := by
  simp [State.answer, State.withInterface]

theorem State.flush_withInterface (inp : List HostAction) (out : List Response) (s : State) :
    (s.withInterface inp out).flush = s.flush.withInterface inp out := by
  unfold State.flush
  rw [apply_ite (State.withInterface inp out)]
  rfl

theorem State.packSample_withInterface (inp : List HostAction) (out : List Response) (d : Depth) (x : BitVec 8)
    (s : State) : (s.withInterface inp out).packSample d x = (s.packSample d x).withInterface inp out := by
  unfold State.packSample
  rw [apply_ite (State.withInterface inp out)]
  rfl

theorem State.nextLane_withInterface (inp : List HostAction) (out : List Response) (d : Depth) (s : State) :
    (s.withInterface inp out).nextLane d = (s.nextLane d).withInterface inp out := by
  unfold State.nextLane
  rw [apply_ite (State.withInterface inp out)]
  rfl

theorem State.appendRecord_flush_withInterface (inp : List HostAction) (out : List Response) (r : Record)
    (s : State) : (s.withInterface inp out).flush.appendRecord r
      = (s.flush.appendRecord r).withInterface inp out := by
  rw [State.flush_withInterface]
  rfl

section
variable {inp : List HostAction} {out : List Response} {s : State}

theorem raise_same (c : Status) : SameOutcome inp out s (raise c s) (raise c (s.withInterface inp out)) := by
  intro t h
  cases h
  exact congrArg Host.Outcome.next (State.answer_withInterface inp out c 0#128 (s.recordFault c))

theorem respond_same {u u' : State} (v : BitVec 128) (hu : u.output = s.output) (hu' : u' = u.withInterface inp out) :
    SameOutcome inp out s (respond v u) (respond v u') := by
  intro t h
  rw [respond_next h, hu', ← hu]
  exact congrArg Host.Outcome.next (State.answer_withInterface inp out .ok v u)

/-- The common checks look at `FAULT` and `DEPTH` only (R186). -/
theorem whenReady_same {body body' : Depth → Host.Outcome State Fault Refusal}
    (h : ∀ d, SameOutcome inp out s (body d) (body' d)) :
    SameOutcome inp out s (whenReady s body) (whenReady (s.withInterface inp out) body') := by
  by_cases hf : s.isLocked
  · rw [whenReady_locked hf, whenReady_locked (s := s.withInterface inp out) hf]
    exact raise_same _
  · have hok : s.fault = .ok := not_not.mp hf
    cases hd : s.depth with
    | notConfigured =>
      rw [whenReady_notConfigured hok hd, whenReady_notConfigured (s := s.withInterface inp out) hok hd]
      exact raise_same _
    | configured d =>
      rw [whenReady_ready hok hd, whenReady_ready (s := s.withInterface inp out) hok hd]
      exact h d

/-- A check of the registers raises its fault in both, or in neither. -/
theorem ite_raise_same {P : Prop} [Decidable P] {c : Status} {o o' : Host.Outcome State Fault Refusal}
    (h : SameOutcome inp out s o o') :
    SameOutcome inp out s (if P then raise c s else o) (if P then raise c (s.withInterface inp out) else o') := by
  split
  · exact raise_same c
  · exact h

theorem execCfg_same (d : BitVec 4) : SameOutcome inp out s (execCfg d s) (execCfg d (s.withInterface inp out)) := by
  unfold execCfg
  cases Depth.ofField d with
  | none => exact raise_same _
  | some e => exact respond_same _ rfl rfl

theorem encAt_same (p : Params) (x : BitVec 8) :
    SameOutcome inp out s (encAt p x s) (encAt p x (s.withInterface inp out)) :=
  whenReady_same fun d => ite_raise_same (ite_raise_same
    (respond_same _ (State.packSample_output s d x) (State.packSample_withInterface inp out d x s)))

theorem commitAt_same (p : Params) : SameOutcome inp out s (commitAt p s) (commitAt p (s.withInterface inp out)) :=
  whenReady_same fun _ => ite_raise_same (ite_raise_same
    (respond_same _ (State.flush_output s) (State.flush_withInterface inp out s)))

theorem execSeek_same (off : BitVec 32) :
    SameOutcome inp out s (execSeek off s) (execSeek off (s.withInterface inp out)) :=
  whenReady_same fun _ => respond_same _ rfl rfl

theorem gbeginAt_same (p : Params) (w h : BitVec 16) :
    SameOutcome inp out s (gbeginAt p w h s) (gbeginAt p w h (s.withInterface inp out)) :=
  whenReady_same fun _ => ite_raise_same (ite_raise_same (ite_raise_same (respond_same _ rfl rfl)))

theorem gendAt_same (p : Params) (adv left top : BitVec 16) :
    SameOutcome inp out s (gendAt p adv left top s) (gendAt p adv left top (s.withInterface inp out)) :=
  whenReady_same fun _ => ite_raise_same (ite_raise_same (ite_raise_same (ite_raise_same
    (respond_same _ (State.flush_output s) (State.appendRecord_flush_withInterface inp out _ s)))))

/-- A cell without a value stops the model in both (log 5). -/
theorem fault_same (f : Fault) : SameOutcome inp out s (.fault f) (.fault f) := fun _ h => nomatch h

theorem execDec_same : SameOutcome inp out s (execDec s) (execDec (s.withInterface inp out)) := by
  refine whenReady_same fun d => ite_raise_same (ite_raise_same ?_)
  rw [State.withInterface_bs, State.withInterface_uptr]
  cases Memory.read s.bs s.uptr.toNat with
  | none => exact fault_same _
  | some b => exact respond_same _ (State.nextLane_output s d) (State.nextLane_withInterface inp out d s)

theorem execRdrec_same (idx : BitVec 16) :
    SameOutcome inp out s (execRdrec idx s) (execRdrec idx (s.withInterface inp out)) := by
  refine whenReady_same fun _ => ite_raise_same ?_
  rw [State.withInterface_recs]
  cases Memory.read s.recs idx.toNat with
  | none => exact fault_same _
  | some r => exact respond_same _ rfl rfl

theorem execRdbs_same (a : BitVec 32) :
    SameOutcome inp out s (execRdbs a s) (execRdbs a (s.withInterface inp out)) := by
  refine whenReady_same fun _ => ite_raise_same ?_
  rw [State.withInterface_bs]
  cases Memory.read s.bs a.toNat with
  | none => exact fault_same _
  | some b => exact respond_same _ rfl rfl

theorem exec_same (i : Instr) : SameOutcome inp out s (exec i s) (exec i (s.withInterface inp out)) := by
  cases i with
  | cfg d => exact execCfg_same d
  | enc x => exact encAt_same _ x
  | commit => exact commitAt_same _
  | seek off => exact execSeek_same off
  | dec => exact execDec_same
  | gbegin w h => exact gbeginAt_same _ w h
  | gend adv left top => exact gendAt_same _ adv left top
  | rdrec idx => exact execRdrec_same idx
  | rdbs a => exact execRdbs_same a
  | rdstat => exact respond_same _ rfl rfl

end

/-- Settles O45: no check looks at the interface, and every effect leaves it but for the response. -/
theorem outcomeIgnoresTheInterface : Obligations.OutcomeIgnoresTheInterface := fun i _ t _ _ => exec_same i t

end Sys2Proof.Machine
end

section
/-! The rules of 20_memory.md: a command as bytes (R56), and what stays readable within a run (R53, R60). -/

namespace Sys2Proof

/-! ### A command's word, read back -/

/-- The word with an opcode in bits 63:56, its fields from bit 0 up, and zeros between (R70). -/
def wordOf {n : Nat} (op : BitVec 8) (f : BitVec n) : Word := op ++ f.setWidth 56

@[simp] theorem opcodeOf_wordOf {n : Nat} (op : BitVec 8) (f : BitVec n) : opcodeOf (wordOf op f) = op :=
  (BitVec.extractLsb'_append_eq_of_le (by decide)).trans BitVec.extractLsb'_eq_self

/-- The bits above the fields are zero (R74). -/
@[simp] theorem reservedZero_wordOf {n : Nat} (op : BitVec 8) (f : BitVec n) (h : n ≤ 56) :
    reservedZero (wordOf op f) n = true := by
  rw [reservedZero, wordOf, BitVec.extractLsb'_append_eq_of_add_le (by omega), beq_iff_eq]
  ext j hj
  simp

/-- A field is read from the fields alone. -/
@[simp] theorem extractLsb'_wordOf {n lo len : Nat} (op : BitVec 8) (f : BitVec n) (h : n ≤ 56)
    (hl : lo + len ≤ n) : (wordOf op f).extractLsb' lo len = f.extractLsb' lo len := by
  rw [wordOf, BitVec.extractLsb'_append_eq_of_add_le (by omega)]
  ext j hj
  rw [BitVec.getElem_extractLsb', BitVec.getElem_extractLsb', BitVec.getLsbD_setWidth, decide_eq_true (by omega),
    Bool.true_and]

/-- `wordOf` with its zeros written out, as `encode` writes them. -/
theorem append_zero_append {k n : Nat} (op : BitVec 8) (f : BitVec n) (h : 8 + k + n = 64) :
    ((op ++ 0#k) ++ f).cast h = wordOf op f := by
  have hshift : k + n = 56 := by omega
  refine BitVec.eq_of_toNat_eq ?_
  show ((op ++ 0#k) ++ f).toNat = (op ++ f.setWidth 56).toNat
  rw [BitVec.toNat_append, BitVec.toNat_append, BitVec.toNat_append, BitVec.toNat_setWidth_of_le (by omega),
    BitVec.toNat_zero, Nat.or_zero, ← Nat.shiftLeft_add, hshift]

/-- R70 to R73, by command: its opcode selects its branch, its reserved bits are zero, and its fields are read back. -/
theorem decode_encode (i : Instr) : decode (encode i) = .ok i := by
  cases i with
  | cfg d =>
    have hw : encode (.cfg d) = wordOf 0x01#8 d := append_zero_append (k := 52) _ d rfl
    simp [hw, decode, checkReserved]
  | enc x =>
    have hw : encode (.enc x) = wordOf 0x10#8 x := append_zero_append (k := 48) _ x rfl
    simp [hw, decode, checkReserved]
  | seek off =>
    have hw : encode (.seek off) = wordOf 0x20#8 off := append_zero_append (k := 24) _ off rfl
    simp [hw, decode, checkReserved]
  | gbegin w h =>
    have hw : encode (.gbegin w h) = wordOf 0x30#8 (h ++ w) :=
      BitVec.append_assoc.trans (append_zero_append (k := 24) _ (h ++ w) rfl)
    have hlow : (h ++ w).extractLsb' 0 16 = w :=
      (BitVec.extractLsb'_append_eq_of_add_le (by decide)).trans BitVec.extractLsb'_eq_self
    have hhigh : (h ++ w).extractLsb' 16 16 = h :=
      (BitVec.extractLsb'_append_eq_of_le (by decide)).trans BitVec.extractLsb'_eq_self
    simp [hw, decode, checkReserved, hlow, hhigh]
  | gend adv left top =>
    have hw : encode (.gend adv left top) = wordOf 0x31#8 (top ++ left ++ adv) := by
      rw [encode, BitVec.append_assoc, BitVec.append_assoc, ← append_zero_append (k := 8) _ (top ++ left ++ adv) rfl,
        BitVec.append_assoc (x₁ := top)]
      rfl
    have hlow : (top ++ left ++ adv).extractLsb' 0 16 = adv :=
      (BitVec.extractLsb'_append_eq_of_add_le (by decide)).trans BitVec.extractLsb'_eq_self
    have hmid : (top ++ left ++ adv).extractLsb' 16 16 = left :=
      (BitVec.extractLsb'_append_eq_of_le (by decide)).trans
        ((BitVec.extractLsb'_append_eq_of_add_le (by decide)).trans BitVec.extractLsb'_eq_self)
    have hhigh : (top ++ left ++ adv).extractLsb' 32 16 = top :=
      (BitVec.extractLsb'_append_eq_of_le (by decide)).trans
        ((BitVec.extractLsb'_append_eq_of_le (by decide)).trans BitVec.extractLsb'_eq_self)
    simp [hw, decode, checkReserved, hlow, hmid, hhigh]
  | rdrec idx =>
    have hw : encode (.rdrec idx) = wordOf 0x40#8 idx := append_zero_append (k := 40) _ idx rfl
    simp [hw, decode, checkReserved]
  | rdbs addr =>
    have hw : encode (.rdbs addr) = wordOf 0x41#8 addr := append_zero_append (k := 24) _ addr rfl
    simp [hw, decode, checkReserved]
  | commit | dec | rdstat => rfl

/-! ### Little-endian bytes (R56) -/

@[simp] theorem bytesOfValue_length (n v : Nat) : (bytesOfValue n v).length = n := by
  induction n generalizing v with
  | zero => rfl
  | succ n ih => simp [bytesOfValue, ih]

/-- n bytes carry a number's n low bytes. -/
theorem valueOfBytes_bytesOfValue (n v : Nat) : valueOfBytes (bytesOfValue n v) = v % 256 ^ n := by
  induction n generalizing v with
  | zero => simp [bytesOfValue, valueOfBytes, Nat.mod_one]
  | succ n ih => rw [bytesOfValue, valueOfBytes, ih, pow_succ', Nat.mod_mul, BitVec.toNat_ofNat]

/-- Settles O6: the eight bytes carry the word's value, and the word decodes to the command. -/
theorem commandBytesRoundTrip : Obligations.CommandBytesRoundTrip := by
  intro i more
  have hlen : (encodeBytes i).length = 8 := bytesOfValue_length 8 _
  have hval : BitVec.ofNat 64 (valueOfBytes (encodeBytes i)) = encode i := by
    rw [encodeBytes, valueOfBytes_bytesOfValue, Nat.mod_eq_of_lt (by simpa using (encode i).isLt)]
    simp
  refine ⟨hlen, ?_⟩
  rw [decodeBytes, if_neg (by simp [hlen]), List.take_left' hlen, List.drop_left' hlen, hval, decode_encode]

end Sys2Proof

namespace Sys2Proof.Machine

/-! ### What stays readable within a run -/

/-- Settles O34: each of the three takes a fault, or answers `OK` and does nothing else. -/
theorem readBackCommandsFrame : Obligations.ReadBackCommandsFrame := by
  intro i s t hi h
  have hcases : Raised s t ∨ ∃ v, t = s.answer .ok v := by
    rcases hi with rfl | ⟨k, rfl⟩ | ⟨a, rfl⟩
    · exact .inr ⟨_, execRdstat_next h⟩
    · exact (execRdrec_next h).imp_right fun ⟨_, _, _, _, _, _, ht⟩ => ⟨_, ht⟩
    · exact (execRdbs_next h).imp_right fun ⟨_, _, _, _, _, _, ht⟩ => ⟨_, ht⟩
  rcases hcases with ⟨c, hc, -, rfl⟩ | ⟨v, rfl⟩
  · exact ⟨rfl, by simp [hc]⟩
  · exact ⟨rfl, by simp⟩

/-- R53 from s to u: the bytes below `LEN` and the records below `NREC` of s are those of u. -/
def State.KeepsReadable (s u : State) : Prop :=
  s.len.toNat ≤ u.len.toNat ∧ s.nrec.toNat ≤ u.nrec.toNat
    ∧ (∀ a, a < s.len.toNat → Memory.read u.bs a = Memory.read s.bs a)
    ∧ ∀ k, k < s.nrec.toNat → Memory.read u.recs k = Memory.read s.recs k

/-- A change of neither store. -/
theorem State.keepsReadable_of_eq {s u : State} (hlen : u.len = s.len) (hnrec : u.nrec = s.nrec) (hbs : u.bs = s.bs)
    (hrecs : u.recs = s.recs) : s.KeepsReadable u := by
  simp [State.KeepsReadable, hlen, hnrec, hbs, hrecs]

/-- A longer bitstream whose new bytes lie at or above `LEN`. -/
theorem State.Grown.keepsReadable {p : Params} {s u : State} (h : s.Grown p u)
    (hbs : ∀ a, a < s.len.toNat → Memory.read u.bs a = Memory.read s.bs a) : s.KeepsReadable u :=
  ⟨h.len_ge, by rw [h.nrec_eq], hbs, by simp [h.recs_eq]⟩

/-- R52: `BsAppend` and `RecAppend` write at `LEN` and at `NREC`, and neither counter wraps. -/
theorem Effect.keepsReadable {p : Params} {i : Instr} {s u : State} (h : s.Inv p) (hi : ∀ d, i ≠ .cfg d)
    (he : Effect p s i u) : s.KeepsReadable u := by
  have hflush : ¬ (s.bytePending ∧ s.bsFull p) → s.KeepsReadable s.flush := fun hcap =>
    (h.store.flush_grown hcap).keepsReadable fun _ ha => State.read_flush_bs fun _ => ha.ne
  cases he with
  | cfg hd => exact absurd rfl (hi _)
  | enc hd hcnt hcap =>
    exact (h.store.packSample_grown (h.pack.room hd) hcap _).keepsReadable
      fun _ ha => State.read_packSample_bs _ fun _ => ha.ne
  | commit hd hg hcap => exact hflush hcap
  | seek hd => exact State.keepsReadable_of_eq rfl rfl rfl rfl
  | dec hd hv hlt => exact State.keepsReadable_of_eq (by simp) (by simp) (by simp) (by simp)
  | gbegin hd hg hcur hcap => exact State.keepsReadable_of_eq rfl rfl rfl rfl
  | gend hd hg hcnt htop hcap =>
    obtain ⟨hlen, -, hbs, -⟩ := hflush hcap
    have hnext : (s.nrec + 1#16).toNat = s.nrec.toNat + 1 := State.OpenGlyphInv.nrec_add_one (h.store.glyph hg)
    refine ⟨hlen, ?_, hbs, fun k hk => ?_⟩
    · simp [-BitVec.toNat_add, hnext]
    · simpa using Memory.read_write_other _ _ hk.ne
  | rdrec | rdbs | rdstat => exact State.keepsReadable_of_eq rfl rfl rfl rfl

/-- Settles O38: a fault changes neither store, and no other effect but `CFG`'s changes a readable cell. -/
theorem readableCellsNeverChange : Obligations.ReadableCellsNeverChange := by
  intro i s t hs hi h
  rcases execAt_next (exec_eq_execAt i s ▸ h) with ⟨c, -, -, rfl⟩ | ⟨u, v, he, rfl⟩
  · exact State.keepsReadable_of_eq rfl rfl rfl rfl
  · have hu : s.KeepsReadable u := he.keepsReadable hs hi
    exact hu

end Sys2Proof.Machine
end

section
/-! The packed format of a unit of encoding (R54, R55, R108): its bytes, and the state in which its samples are
packed. -/

namespace Sys2Proof.Machine

/-! ### The bytes of a unit -/

/-- A bit of an OR of bytes is set where one of them sets it. -/
theorem foldl_or_getLsbD (f : Nat → BitVec 8) (l : List Nat) (a : BitVec 8) (b : Nat) :
    (l.foldl (fun v k => v ||| f k) a).getLsbD b = (a.getLsbD b || l.any fun k => (f k).getLsbD b) := by
  induction l generalizing a with
  | nil => simp
  | cons k l ih => simp [ih, Bool.or_assoc]

/-- R55: bit b of byte j is a bit of the sample whose lane covers it, or of none. -/
theorem unitByte_getLsbD (d : Depth) (xs : List (BitVec 8)) (j : Nat) {b : Nat} (hb : b < 8) :
    (unitByte d xs j).getLsbD b = (xs.getD ((8 * j + b) / d.bits) 0#8).getLsbD ((8 * j + b) % d.bits) := by
  have hlane : b / d.bits < 8 / d.bits ∧ b / d.bits * d.bits ≤ b ∧ b < b / d.bits * d.bits + d.bits
      ∧ (8 * j + b) / d.bits = j * (8 / d.bits) + b / d.bits
      ∧ (8 * j + b) % d.bits = b - b / d.bits * d.bits := by
    cases d <;> simp only [Depth.bits] <;> omega
  obtain ⟨hlt, hle, hgt, hdiv, hmod⟩ := hlane
  rw [hdiv, hmod, unitByte, foldl_or_getLsbD, Bool.eq_iff_iff]
  simp only [BitVec.getLsbD_zero, Bool.false_or, List.any_eq_true, List.mem_range, placeSample_getLsbD d _ _ hb,
    Bool.and_eq_true, decide_eq_true_eq]
  constructor
  · rintro ⟨k, -, ⟨hk, hk'⟩, hx⟩
    obtain rfl : b / d.bits = k := Nat.div_eq_of_lt_le (by omega) (by rw [Nat.add_mul]; omega)
    exact hx
  · exact fun hx => ⟨_, hlt, ⟨hle, hgt⟩, hx⟩

/-- A byte above the unit's samples is clear. -/
theorem unitByte_eq_zero {d : Depth} {xs : List (BitVec 8)} {j : Nat} (h : xs.length * d.bits ≤ 8 * j) :
    unitByte d xs j = 0#8 := by
  refine BitVec.eq_of_getLsbD_eq fun b hb => ?_
  have hq : xs.length ≤ (8 * j + b) / d.bits := (Nat.le_div_iff_mul_le d.bits_pos).mpr (by omega)
  rw [unitByte_getLsbD d xs j hb, List.getD_eq_default _ _ hq]
  simp

theorem getD_append_singleton (xs : List (BitVec 8)) (x : BitVec 8) (q : Nat) :
    (xs ++ [x]).getD q 0#8 = if q = xs.length then x else xs.getD q 0#8 := by
  rcases Nat.lt_trichotomy q xs.length with h | rfl | h
  · rw [if_neg h.ne, List.getD_append _ _ _ _ h]
  · simp
  · rw [if_neg h.ne', List.getD_eq_default _ _ h.le, List.getD_eq_default _ _ (by simpa using h)]

/-- The lane of the sample after n is in the byte and at the bit where those n end. -/
theorem Depth.lane_iff (d : Depth) (n j : Nat) {b : Nat} (hb : b < 8) :
    (8 * j + b) / d.bits = n
      ↔ j = n * d.bits / 8 ∧ n * d.bits % 8 ≤ b ∧ b < n * d.bits % 8 + d.bits := by
  cases d <;> simp only [Depth.bits] <;> omega

/-- One sample more changes one byte of the unit: the one where its lane lies (R54). -/
theorem unitByte_append_singleton (d : Depth) (xs : List (BitVec 8)) (x : BitVec 8) (j : Nat) :
    unitByte d (xs ++ [x]) j =
      if j = xs.length * d.bits / 8 then unitByte d xs j ||| placeSample d x (xs.length * d.bits % 8)
      else unitByte d xs j := by
  refine BitVec.eq_of_getLsbD_eq fun b hb => ?_
  rw [apply_ite (BitVec.getLsbD · b), BitVec.getLsbD_or, placeSample_getLsbD d x _ hb, unitByte_getLsbD d _ j hb,
    unitByte_getLsbD d _ j hb, getD_append_singleton]
  have hlane := d.lane_iff xs.length j hb
  split
  · next hq =>
    obtain ⟨rfl, hle, hlt⟩ := hlane.mp hq
    have hmod : (8 * (xs.length * d.bits / 8) + b) % d.bits = b - xs.length * d.bits % 8 := by
      rw [show 8 * (xs.length * d.bits / 8) + b = (b - xs.length * d.bits % 8) + xs.length * d.bits by omega,
        Nat.add_mul_mod_self_right, Nat.mod_eq_of_lt (by omega)]
    simp [hq, hle, hlt, hmod]
  · next hq =>
    split
    · next hj =>
      have hout : ¬ (xs.length * d.bits % 8 ≤ b ∧ b < xs.length * d.bits % 8 + d.bits) :=
        fun h => hq (hlane.mpr ⟨hj, h⟩)
      rw [← Bool.decide_and, decide_eq_false hout, Bool.false_and, Bool.or_false]
    · rfl

/-- The bytes of a whole unit (R55, R108). -/
def unitBytes (d : Depth) (xs : List (BitVec 8)) : List (BitVec 8) :=
  (List.range (packedLength d.bits xs.length)).map (unitByte d xs)

@[simp] theorem unitBytes_length (d : Depth) (xs : List (BitVec 8)) :
    (unitBytes d xs).length = packedLength d.bits xs.length := by
  simp [unitBytes]

/-! ### Commands that pass their checks -/

theorem exec_cfg (d : Depth) (s : State) :
    exec (.cfg (BitVec.ofNat 4 d.bits)) s = .next ((s.startRun d).answer .ok 0#128) := by
  show execCfg _ s = _
  simp [execCfg, respond]

/-- R101. -/
theorem exec_enc {s : State} {d : Depth} (x : BitVec 8) (hf : s.fault = .ok) (hd : s.depth = .configured d)
    (hcnt : ¬ s.glyphFull) (hcap : ¬ (s.cur.toNat + d.bits = 8 ∧ s.bsFull Config.params)) :
    exec (.enc x) s = .next ((s.packSample d x).answer .ok 0#128) := by
  show encAt Config.params x s = _
  rw [encAt, whenReady_ready hf hd, if_neg hcnt, if_neg hcap, respond]

/-- R131. -/
theorem exec_gbegin {s : State} {d : Depth} (w h : BitVec 16) (hf : s.fault = .ok) (hd : s.depth = .configured d)
    (hg : s.gopen = false) (hcur : s.cur = 0#4) (hcap : ¬ s.recFull Config.params) :
    exec (.gbegin w h) s = .next ((s.openGlyph w h).answer .ok 0#128) := by
  show gbeginAt Config.params w h s = _
  rw [gbeginAt, whenReady_ready hf hd, if_neg (by simp [hg]), if_neg (by simp [hcur]), if_neg hcap, respond]

/-- R134. -/
theorem exec_gend {s : State} {d : Depth} (adv left top : BitVec 16) (hf : s.fault = .ok)
    (hd : s.depth = .configured d) (hg : s.gopen = true) (hcnt : s.gCnt.toNat = s.glyphSize)
    (htop : yOffsetOf top ≤ 32767) (hcap : ¬ (s.bytePending ∧ s.bsFull Config.params)) :
    exec (.gend adv left top) s = .next
      ((s.flush.appendRecord (s.glyphRecord adv left top)).answer .ok (zext128 s.nrec)) := by
  show gendAt Config.params adv left top s = _
  rw [gendAt, whenReady_ready hf hd, if_neg (by simp [hg]), if_neg (by simpa using hcnt), if_neg (by omega),
    if_neg hcap, respond]

/-! ### The state after the samples of a unit -/

/-- The block can take a unit of n samples: nothing pending, room for its bytes, and, in a glyph, for its samples. -/
structure State.UnitReady (d : Depth) (n : Nat) (s : State) : Prop where
  fault_ok : s.fault = .ok
  depth_eq : s.depth = .configured d
  acc_zero : s.acc = 0#8
  cur_zero : s.cur = 0#4
  bs_cells : s.bs.map Prod.fst = List.range s.len.toNat
  room : s.len.toNat + packedLength d.bits n ≤ Config.params.bsCap
  count : s.gopen = true → s.gCnt.toNat + n ≤ s.glyphSize

/-- The state in which the samples of a unit have been packed and none flushed: the completed bytes appended, the
other bits pending (R101). -/
def State.withUnit (d : Depth) (xs : List (BitVec 8)) (s : State) : State :=
  { s with
    bs := s.bs ++ (List.range (xs.length * d.bits / 8)).map fun j => (s.len.toNat + j, unitByte d xs j)
    len := s.len + BitVec.ofNat 32 (xs.length * d.bits / 8)
    acc := unitByte d xs (xs.length * d.bits / 8)
    cur := BitVec.ofNat 4 (xs.length * d.bits % 8)
    gCnt := if s.gopen then s.gCnt + BitVec.ofNat 32 xs.length else s.gCnt
    output := s.output ++ List.replicate xs.length ⟨.ok, 0#128⟩ }

theorem State.UnitReady.of_le {d : Depth} {n m : Nat} {s : State} (h : s.UnitReady d n) (hm : m ≤ n) :
    s.UnitReady d m where
  fault_ok := h.fault_ok
  depth_eq := h.depth_eq
  acc_zero := h.acc_zero
  cur_zero := h.cur_zero
  bs_cells := h.bs_cells
  room := by
    have : packedLength d.bits m ≤ packedLength d.bits n :=
      Nat.div_le_div_right (Nat.add_le_add_right (Nat.mul_le_mul_right _ hm) 7)
    exact (Nat.add_le_add_left this _).trans h.room
  count hg := (Nat.add_le_add_left hm _).trans (h.count hg)

theorem State.withUnit_nil {d : Depth} {n : Nat} {s : State} (h : s.UnitReady d n) : s.withUnit d [] = s := by
  have hacc := h.acc_zero
  have hcur := h.cur_zero
  cases s
  simp_all [State.withUnit, unitByte_eq_zero]

@[simp] theorem State.withUnit_cur (d : Depth) (xs : List (BitVec 8)) (s : State) :
    (s.withUnit d xs).cur.toNat = xs.length * d.bits % 8 := by
  show (BitVec.ofNat 4 _).toNat = _
  rw [BitVec.toNat_ofNat]
  omega

section
variable {d : Depth} {xs : List (BitVec 8)} {s : State}

/-- `LEN` does not wrap while the unit has room. -/
theorem State.UnitReady.withUnit_len (h : s.UnitReady d xs.length) :
    (s.withUnit d xs).len.toNat = s.len.toNat + xs.length * d.bits / 8 := by
  have := Config.params.bsCap_le
  have := h.room
  unfold packedLength at this
  show (s.len + BitVec.ofNat 32 _).toNat = _
  rw [BitVec.toNat_add, BitVec.toNat_ofNat]
  omega

theorem State.UnitReady.withUnit_gCnt (h : s.UnitReady d xs.length) (hg : s.gopen = true) :
    (s.withUnit d xs).gCnt.toNat = s.gCnt.toNat + xs.length := by
  have := h.count hg
  have := s.glyphSize_lt
  show BitVec.toNat (if s.gopen then s.gCnt + BitVec.ofNat 32 xs.length else s.gCnt) = _
  rw [if_pos hg, BitVec.toNat_add, BitVec.toNat_ofNat]
  omega

/-- Exactly the cells below `LEN` have a value (R26). -/
theorem State.UnitReady.withUnit_cells (h : s.UnitReady d xs.length) :
    (s.withUnit d xs).bs.map Prod.fst = List.range (s.withUnit d xs).len.toNat := by
  rw [h.withUnit_len, List.range_add, ← h.bs_cells]
  simp [State.withUnit]

/-- The next byte of the unit goes last. -/
theorem State.UnitReady.withUnit_write (h : s.UnitReady d xs.length) (v : BitVec 8) :
    Memory.write (s.withUnit d xs).bs (s.withUnit d xs).len.toNat v
      = (s.withUnit d xs).bs ++ [(s.len.toNat + xs.length * d.bits / 8, v)] := by
  rw [Memory.write_append v h.withUnit_cells, h.withUnit_len]

/-- The completed bytes are no part of what the next sample changes. -/
theorem cells_append_singleton (d : Depth) (xs : List (BitVec 8)) (x : BitVec 8) (a : Nat) :
    ((List.range (xs.length * d.bits / 8)).map fun j => (a + j, unitByte d (xs ++ [x]) j))
      = (List.range (xs.length * d.bits / 8)).map fun j => (a + j, unitByte d xs j) :=
  List.map_congr_left fun j hj => by
    rw [unitByte_append_singleton, if_neg (List.mem_range.mp hj).ne]

/-- One more sample packed (R101): it completes the byte, or goes into a lane below the last. -/
theorem State.UnitReady.packSample_withUnit (h : s.UnitReady d xs.length) (x : BitVec 8) :
    ((s.withUnit d xs).packSample d x).answer .ok 0#128 = s.withUnit d (xs ++ [x]) := by
  have hwrite (v : BitVec 8) : Memory.write (s.withUnit d xs).countSample.bs (s.withUnit d xs).countSample.len.toNat v
      = (s.withUnit d xs).bs ++ [(s.len.toNat + xs.length * d.bits / 8, v)] := h.withUnit_write v
  have hcells := cells_append_singleton d xs x s.len.toNat
  have hbyte := unitByte_append_singleton d xs x (xs.length * d.bits / 8)
  rw [if_pos rfl] at hbyte
  have hcount : (xs.length + 1) * d.bits = xs.length * d.bits + d.bits := by rw [Nat.add_mul, Nat.one_mul]
  have hlane : xs.length * d.bits % 8 + d.bits ≤ 8 :=
    d.lane_room ((Nat.dvd_mod_iff d.bits_dvd).mpr (Nat.dvd_mul_left _ _)) (Nat.mod_lt _ (by decide))
  have hgCnt : (s.withUnit d xs).countSample.gCnt = (s.withUnit d (xs ++ [x])).gCnt := by
    simp only [State.countSample_gCnt, State.withUnit]
    split <;> simp [BitVec.ofNat_add, BitVec.add_assoc]
  unfold State.packSample
  rw [State.withUnit_cur]
  by_cases hfull : 8 ≤ xs.length * d.bits % 8 + d.bits
  · have hdiv : (xs.length + 1) * d.bits / 8 = xs.length * d.bits / 8 + 1 := by omega
    have hmod : (xs.length + 1) * d.bits % 8 = 0 := by omega
    have hnext : unitByte d (xs ++ [x]) (xs.length * d.bits / 8 + 1) = 0#8 :=
      unitByte_eq_zero (by rw [List.length_append, List.length_singleton]; omega)
    rw [if_pos hfull]
    simp only [State.answer, State.emptyAcc, State.appendByte, hwrite, hgCnt]
    simp [State.withUnit, State.countSample, hdiv, hmod, hcells, hbyte, hnext, List.range_succ, List.replicate_succ',
      BitVec.ofNat_add, BitVec.add_assoc]
  · have hdiv : (xs.length + 1) * d.bits / 8 = xs.length * d.bits / 8 := by omega
    have hmod : (xs.length + 1) * d.bits % 8 = xs.length * d.bits % 8 + d.bits := by omega
    rw [if_neg hfull]
    simp only [State.answer, hgCnt]
    simp [State.withUnit, State.countSample, hdiv, hmod, hcells, hbyte, List.replicate_succ', BitVec.ofNat_add]

/-- `ENC` of the next sample passes its checks. -/
theorem State.UnitReady.exec_enc (h : s.UnitReady d (xs.length + 1)) (x : BitVec 8) :
    exec (.enc x) (s.withUnit d xs) = .next (s.withUnit d (xs ++ [x])) := by
  have h' : s.UnitReady d xs.length := h.of_le (Nat.le_succ _)
  rw [← h'.packSample_withUnit x]
  refine Machine.exec_enc x h.fault_ok h.depth_eq ?_ ?_
  · rintro ⟨hg, hfull⟩
    rw [h'.withUnit_gCnt hg] at hfull
    have := h.count hg
    exact absurd hfull (by show _ ≠ s.glyphSize; omega)
  · rintro ⟨hcur, hfull⟩
    have hroom := h.room
    rw [State.withUnit_cur] at hcur
    rw [State.bsFull, h'.withUnit_len] at hfull
    unfold packedLength at hroom
    rw [Nat.add_mul] at hroom
    omega

end

/-- R101, R108: the samples of a unit one after another. -/
theorem execAll_enc {d : Depth} {s : State} (xs : List (BitVec 8)) (h : s.UnitReady d xs.length) :
    execAll (xs.map .enc) s = .next (s.withUnit d xs) := by
  induction xs using List.reverseRecOn with
  | nil => rw [State.withUnit_nil h]; rfl
  | append_singleton xs x ih =>
    rw [List.length_append] at h
    rw [List.map_append, execAll_append _ _ (ih (h.of_le (Nat.le_add_right _ _)))]
    exact execAll_cons [] (h.exec_enc x)

end Sys2Proof.Machine
end

section
/-! A glyph and a run of glyphs (R55, R134, R139, R140, R164): the bytes and the record of each glyph stand after those
before it, and the asset of a conversion run is made of them (R151, R172). -/

namespace Sys2Proof.Machine

/-! ### A unit flushed -/

/-- The bytes of the bitstream (R151). -/
abbrev State.bytes (s : State) : List (BitVec 8) := s.bs.map Prod.snd

/-- The records in order (R151). -/
abbrev State.records (s : State) : List Record := s.recs.map Prod.snd

theorem State.bytePending_iff (s : State) : s.bytePending ↔ s.cur.toNat ≠ 0 :=
  not_congr BitVec.toNat_inj.symm

/-- R104, R108: with the pending bits flushed, the unit's bytes stand after those before it. -/
theorem State.UnitReady.flush_bytes {d : Depth} {xs : List (BitVec 8)} {s : State} (h : s.UnitReady d xs.length) :
    (s.withUnit d xs).flush.bytes = s.bytes ++ unitBytes d xs := by
  have hbytes : (s.withUnit d xs).bytes = s.bytes ++ (List.range (xs.length * d.bits / 8)).map (unitByte d xs) := by
    simp [State.bytes, State.withUnit]
  rw [State.bytes, State.flush_bs, unitBytes, packedLength]
  split
  · next hp =>
    rw [State.bytePending_iff, State.withUnit_cur] at hp
    rw [h.withUnit_write, List.map_append, show (xs.length * d.bits + 7) / 8 = xs.length * d.bits / 8 + 1 by omega,
      List.range_succ, List.map_append, ← List.append_assoc]
    exact congrArg (· ++ _) hbytes
  · next hp =>
    rw [State.bytePending_iff, State.withUnit_cur] at hp
    rw [show (xs.length * d.bits + 7) / 8 = xs.length * d.bits / 8 by omega]
    exact hbytes

/-! ### Commands between two glyphs -/

/-- A run with no glyph open and nothing pending, at a depth (R222). -/
structure State.BetweenGlyphs (d : Depth) (s : State) : Prop where
  inv : s.Inv Config.params
  complete : s.runComplete
  depth_eq : s.depth = .configured d

/-- From s to t, two such states, the run has appended these bytes and records, and every response was `OK`. -/
structure State.Appends (d : Depth) (bytes : List (BitVec 8)) (records : List Record) (s t : State) : Prop where
  between : t.BetweenGlyphs d
  bytes_eq : t.bytes = s.bytes ++ bytes
  records_eq : t.records = s.records ++ records
  responses_ok : ∃ rs, t.output = s.output ++ rs ∧ ∀ r ∈ rs, r.status = .ok

theorem State.BetweenGlyphs.appends_nil {d : Depth} {s : State} (h : s.BetweenGlyphs d) : s.Appends d [] [] s :=
  ⟨h, by simp, by simp, [], by simp⟩

theorem State.Appends.trans {d : Depth} {bs bs' : List (BitVec 8)} {rs rs' : List Record} {s t u : State}
    (h : s.Appends d bs rs t) (h' : t.Appends d bs' rs' u) : s.Appends d (bs ++ bs') (rs ++ rs') u := by
  obtain ⟨-, hbytes, hrecs, os, hos, hok⟩ := h
  obtain ⟨hu, hbytes', hrecs', os', hos', hok'⟩ := h'
  refine ⟨hu, by rw [hbytes', hbytes, List.append_assoc], by rw [hrecs', hrecs, List.append_assoc], os ++ os',
    by rw [hos', hos, List.append_assoc], fun r hr => ?_⟩
  exact (List.mem_append.mp hr).elim (hok r) (hok' r)

section
variable {d : Depth} {bs : List (BitVec 8)} {rs : List Record} {s t : State}

theorem State.BetweenGlyphs.bytes_length (h : s.BetweenGlyphs d) : s.bytes.length = s.len.toNat := by
  simpa using congrArg List.length h.inv.store.bs_cells

theorem State.BetweenGlyphs.records_length (h : s.BetweenGlyphs d) : s.records.length = s.nrec.toNat := by
  simpa using congrArg List.length h.inv.store.rec_cells

theorem State.Appends.len_eq (h : s.Appends d bs rs t) (hs : s.BetweenGlyphs d) :
    t.len.toNat = s.len.toNat + bs.length := by
  rw [← h.between.bytes_length, ← hs.bytes_length, h.bytes_eq, List.length_append]

theorem State.Appends.nrec_eq (h : s.Appends d bs rs t) (hs : s.BetweenGlyphs d) :
    t.nrec.toNat = s.nrec.toNat + rs.length := by
  rw [← h.between.records_length, ← hs.records_length, h.records_eq, List.length_append]

end

/-- The invariants outlive a sequence of commands. -/
theorem execAll_inv {is : List Instr} {s t : State} (h : s.Inv Config.params) (hex : execAll is s = .next t) :
    t.Inv Config.params := by
  induction is generalizing s with
  | nil => cases hex; exact h
  | cons i is ih =>
    cases hi : exec i s with
    | next u => exact ih (execAt_inv h (exec_eq_execAt i s ▸ hi)) (by rwa [execAll_cons is hi] at hex)
    | fault f => simp [execAll, hi] at hex
    | refused r => simp [execAll, hi] at hex

/-- A `CFG` of a legal depth starts a run with nothing appended (R90). -/
theorem State.startRun_betweenGlyphs (d : Depth) (s : State) :
    ((s.startRun d).answer .ok 0#128).BetweenGlyphs d where
  inv := (State.Inv.outlivesFaults Config.params).of_answer
    ⟨State.packInv_of_empty rfl rfl, State.unpkInv_of_none rfl rfl rfl, State.startRun_storeInv _ d s, by simp⟩ _ _
  complete := ⟨rfl, nofun, rfl, rfl⟩
  depth_eq := rfl

/-! ### One glyph -/

/-- A glyph opened between two others takes a unit of as many samples as it has pixels (R131, R133). -/
theorem State.BetweenGlyphs.unitReady {d : Depth} {s : State} (hs : s.BetweenGlyphs d) {n : Nat} {w h : BitVec 16}
    (hn : n = w.toNat * h.toNat) (hroom : s.len.toNat + packedLength d.bits n ≤ Config.params.bsCap) :
    ((s.openGlyph w h).answer .ok 0#128).UnitReady d n where
  fault_ok := hs.complete.1
  depth_eq := hs.depth_eq
  acc_zero := hs.inv.pack.acc_zero hs.complete.2.2.2
  cur_zero := hs.complete.2.2.2
  bs_cells := hs.inv.store.bs_cells
  room := hroom
  count _ := by simp [hn, State.glyphSize]

/-- `GEND` after the last sample of its glyph passes its checks: the unit has room for the pending byte. -/
theorem State.UnitReady.exec_gend {d : Depth} {xs : List (BitVec 8)} {s : State} (h : s.UnitReady d xs.length)
    (hg : s.gopen = true) (hcnt : s.gCnt.toNat + xs.length = s.glyphSize) (adv left : BitVec 16) {top : BitVec 16}
    (htop : yOffsetOf top ≤ 32767) :
    exec (.gend adv left top) (s.withUnit d xs) = .next
      (((s.withUnit d xs).flush.appendRecord (s.glyphRecord adv left top)).answer .ok (zext128 s.nrec)) := by
  refine Machine.exec_gend adv left top h.fault_ok h.depth_eq hg ((h.withUnit_gCnt hg).trans hcnt) htop ?_
  rintro ⟨hp, hfull⟩
  have hroom := h.room
  rw [State.bytePending_iff, State.withUnit_cur] at hp
  rw [State.bsFull, h.withUnit_len] at hfull
  unfold packedLength at hroom
  omega

/-- R134, R164: a glyph issued whole appends its samples' bytes and its record. -/
theorem execAll_glyph {d : Depth} {s : State} {xs : List (BitVec 8)} {w h top : BitVec 16} (adv left : BitVec 16)
    (hs : s.BetweenGlyphs d) (hn : xs.length = w.toNat * h.toNat)
    (hroom : s.len.toNat + packedLength d.bits xs.length ≤ Config.params.bsCap)
    (hrec : s.nrec.toNat < Config.params.recCap) (htop : yOffsetOf top ≤ 32767) :
    ∃ t, execAll (.gbegin w h :: xs.map .enc ++ [.gend adv left top]) s = .next t
      ∧ s.Appends d (unitBytes d xs) [⟨s.len, w, h, adv, left, BitVec.ofInt 16 (yOffsetOf top)⟩] t := by
  obtain ⟨hf, hd, hg, hcur⟩ := hs.complete
  have hready := hs.unitReady hn hroom
  have hbegin := exec_gbegin w h hf hs.depth_eq hg hcur hrec.ne
  have hend := hready.exec_gend rfl (by simp [hn, State.glyphSize]) adv left htop
  have hex := (execAll_append _ [.gend adv left top]
    ((execAll_cons _ hbegin).trans (execAll_enc xs hready))).trans (execAll_cons [] hend)
  refine ⟨_, hex, ⟨execAll_inv hs.inv hex, ⟨?_, ?_, ?_, ?_⟩, ?_⟩, hready.flush_bytes, ?_, ?_⟩
  · simpa [State.withUnit] using hf
  · simpa [State.withUnit] using hd
  · simp
  · simp
  · simpa [State.withUnit] using hs.depth_eq
  · simp [State.withUnit, State.records, Memory.write_append _ hs.inv.store.rec_cells, State.glyphRecord]
  · refine ⟨⟨.ok, 0#128⟩ :: List.replicate xs.length ⟨.ok, 0#128⟩ ++ [⟨.ok, zext128 s.nrec⟩], ?_, ?_⟩
    · simp [State.withUnit]
    · exact List.forall_mem_append.mpr
        ⟨List.forall_mem_cons.mpr ⟨rfl, fun r hr => by rw [List.eq_of_mem_replicate hr]⟩, by simp⟩

/-! ### The host's glyphs -/

/-- A glyph's values fit their fields (R72, R221). -/
structure GlyphFits (m : Bitmap) (q : Metrics) : Prop where
  width_lt : m.width < 65536
  height_lt : m.height < 65536
  advance_fits : -32768 ≤ q.advance ∧ q.advance ≤ 32767
  left_fits : -32768 ≤ q.leftBearing ∧ q.leftBearing ≤ 32767
  top_fits : -32768 ≤ q.topBearing ∧ q.topBearing ≤ 32767

/-- R57: one place in scan order for each pixel. -/
theorem Bitmap.scan_length (m : Bitmap) : m.scan.length = m.width * m.height := by
  simp [Bitmap.scan, List.length_flatMap, Nat.mul_comm]

theorem length_of_mapM {α β : Type} {f : α → Option β} {l : List α} {ys : List β} (h : l.mapM f = some ys) :
    ys.length = l.length := by
  induction l generalizing ys with
  | nil => simp_all
  | cons a l ih =>
    rw [List.mapM_cons] at h
    obtain ⟨y, -, h⟩ := Option.bind_eq_some_iff.mp h
    obtain ⟨zs, hz, h⟩ := Option.bind_eq_some_iff.mp h
    obtain rfl := Option.some.inj h
    simp [ih hz]

theorem Bitmap.samples_length {d : Depth} {m : Bitmap} {xs : List (BitVec 8)} (h : m.samples d = some xs) :
    xs.length = m.width * m.height :=
  (length_of_mapM h).trans m.scan_length

/-- A sample written as a number is the sample (R78). -/
theorem encodeSamples_toNat (xs : List (BitVec 8)) :
    encodeSamples (xs.map fun x => (x.toNat : Int)) = xs.map .enc := by
  simp [encodeSamples, Function.comp_def]

/-- The host issues a glyph if its buffer holds its pixels and its values fit, and then as `GBEGIN`, its samples, and
`GEND` (R79, R164). -/
theorem glyphCommands_eq_some {d : Depth} {m : Bitmap} {q : Metrics} {is : List Instr}
    (h : glyphCommands d m q = some is) :
    ∃ xs, m.samples d = some xs ∧ GlyphFits m q
      ∧ is = .gbegin (BitVec.ofNat 16 m.width) (BitVec.ofNat 16 m.height) :: xs.map .enc
          ++ [.gend (metricField q.advance) (metricField q.leftBearing) (metricField q.topBearing)] := by
  obtain ⟨xs, hxs, h⟩ := Option.bind_eq_some_iff.mp h
  unfold assemble at h
  split at h
  · next hwf =>
    refine ⟨xs, hxs, ?_, ?_⟩
    · simp only [AsmLine.wellFormed, fitsUnsigned, fitsMetric, Bool.and_eq_true, decide_eq_true_eq] at hwf
      obtain ⟨⟨⟨⟨⟨hw, hh⟩, ha⟩, hl⟩, ht⟩, -⟩ := hwf
      exact ⟨by omega, by omega, ha, hl, ht⟩
    · rw [← Option.some.inj h, expandLine, encodeSamples_toNat, BitVec.ofInt_natCast, BitVec.ofInt_natCast]
  · cases h

theorem metricField_toInt {v : Int} (h : -32768 ≤ v ∧ v ≤ 32767) : (metricField v).toInt = v :=
  BitVec.toInt_ofInt_eq_self (by decide) (by omega) (by omega)

/-- The bytes of a glyph (R55, R164). -/
def glyphBytes (d : Depth) (g : Bitmap × Metrics) : List (BitVec 8) := unitBytes d ((g.1.samples d).getD [])

theorem glyphBytes_eq {d : Depth} {g : Bitmap × Metrics} {xs : List (BitVec 8)} (h : g.1.samples d = some xs) :
    glyphBytes d g = unitBytes d xs := by
  rw [glyphBytes, h, Option.getD_some]

/-- How many they are (R108). -/
abbrev glyphLength (d : Depth) (g : Bitmap × Metrics) : Nat := packedLength d.bits (g.1.width * g.1.height)

theorem glyphBytes_length {d : Depth} {g : Bitmap × Metrics} {is : List Instr}
    (h : glyphCommands d g.1 g.2 = some is) : (glyphBytes d g).length = glyphLength d g := by
  obtain ⟨xs, hxs, -, -⟩ := glyphCommands_eq_some h
  rw [glyphBytes_eq hxs, unitBytes_length, Bitmap.samples_length hxs]

/-- The record of a glyph at an offset (R135, R136). -/
def glyphRecordAt (offset : Nat) (g : Bitmap × Metrics) : Record where
  offset := BitVec.ofNat 32 offset
  width := BitVec.ofNat 16 g.1.width
  height := BitVec.ofNat 16 g.1.height
  xAdvance := metricField g.2.advance
  xOffset := metricField g.2.leftBearing
  yOffset := BitVec.ofInt 16 (1 - g.2.topBearing)

/-- The records of glyphs one after another, the first at an offset (R140). -/
def glyphRecords (d : Depth) (offset : Nat) (gs : List (Bitmap × Metrics)) : List Record :=
  gs.mapIdx fun i g => glyphRecordAt (offset + ((gs.take i).map (glyphLength d)).sum) g

@[simp] theorem glyphRecords_length (d : Depth) (offset : Nat) (gs : List (Bitmap × Metrics)) :
    (glyphRecords d offset gs).length = gs.length := List.length_mapIdx

theorem glyphRecords_getElem? {d : Depth} {gs : List (Bitmap × Metrics)} {i : Nat} {g : Bitmap × Metrics}
    (offset : Nat) (h : gs[i]? = some g) : (glyphRecords d offset gs)[i]?
      = some (glyphRecordAt (offset + ((gs.take i).map (glyphLength d)).sum) g) := by
  rw [glyphRecords, List.getElem?_mapIdx, h, Option.map_some]

theorem glyphRecords_cons (d : Depth) (offset : Nat) (g : Bitmap × Metrics) (gs : List (Bitmap × Metrics)) :
    glyphRecords d offset (g :: gs) = glyphRecordAt offset g :: glyphRecords d (offset + glyphLength d g) gs := by
  simp [glyphRecords, List.mapIdx_cons, Nat.add_assoc]

/-- One glyph of the host's loop appends its bytes and its record. -/
theorem execAll_glyphCommands {d : Depth} {s : State} {g : Bitmap × Metrics} {is : List Instr}
    (hs : s.BetweenGlyphs d) (his : glyphCommands d g.1 g.2 = some is)
    (hroom : s.len.toNat + glyphLength d g ≤ Config.params.bsCap) (hrec : s.nrec.toNat < Config.params.recCap)
    (htop : -32766 ≤ g.2.topBearing) :
    ∃ t, execAll is s = .next t ∧ s.Appends d (glyphBytes d g) [glyphRecordAt s.len.toNat g] t := by
  obtain ⟨xs, hxs, hfits, rfl⟩ := glyphCommands_eq_some his
  have hlen : xs.length = g.1.width * g.1.height := Bitmap.samples_length hxs
  have hy : yOffsetOf (metricField g.2.topBearing) = 1 - g.2.topBearing := by
    rw [yOffsetOf, metricField_toInt hfits.top_fits]
  have hbytes : glyphBytes d g = unitBytes d xs := glyphBytes_eq hxs
  have hw := hfits.width_lt
  have hh := hfits.height_lt
  obtain ⟨t, hex, happ⟩ := execAll_glyph (metricField g.2.advance) (metricField g.2.leftBearing) hs
    (xs := xs) (w := BitVec.ofNat 16 g.1.width) (h := BitVec.ofNat 16 g.1.height)
    (top := metricField g.2.topBearing) (by simp [hlen, Nat.mod_eq_of_lt hw, Nat.mod_eq_of_lt hh])
    (by rwa [hlen]) hrec (by omega)
  refine ⟨t, hex, ?_⟩
  rw [hbytes, glyphRecordAt, BitVec.ofNat_toNat, BitVec.setWidth_eq, ← hy]
  exact happ

/-- R143, R164: the glyphs of a run append their bytes and records in order; a skipped code point appends nothing. -/
theorem execAll_glyphsCommands {d : Depth} (gs : List (Option (Bitmap × Metrics))) {s : State} {is : List Instr}
    (hs : s.BetweenGlyphs d) (his : glyphsCommands d gs = some is)
    (hroom : s.len.toNat + ((gs.filterMap id).map (glyphLength d)).sum ≤ Config.params.bsCap)
    (hrec : s.nrec.toNat + (gs.filterMap id).length ≤ Config.params.recCap)
    (htop : ∀ g ∈ gs.filterMap id, -32766 ≤ g.2.topBearing) :
    ∃ t, execAll is s = .next t ∧ s.Appends d ((gs.filterMap id).flatMap (glyphBytes d))
      (glyphRecords d s.len.toNat (gs.filterMap id)) t := by
  induction gs generalizing s is with
  | nil =>
    cases his
    exact ⟨s, rfl, hs.appends_nil⟩
  | cons g gs ih =>
    cases g with
    | none => exact ih hs his hroom hrec htop
    | some g =>
      obtain ⟨js, hjs, his⟩ := Option.bind_eq_some_iff.mp his
      obtain ⟨ks, hks, rfl⟩ := Option.map_eq_some_iff.mp his
      have hgs : (some g :: gs).filterMap id = g :: gs.filterMap id := rfl
      rw [hgs] at hroom hrec htop ⊢
      simp only [List.map_cons, List.sum_cons, List.length_cons, List.forall_mem_cons] at hroom hrec htop
      obtain ⟨u, hu, happ⟩ := execAll_glyphCommands hs hjs (by omega) (by omega) htop.1
      have hulen := happ.len_eq hs
      have hunrec := happ.nrec_eq hs
      rw [glyphBytes_length hjs] at hulen
      obtain ⟨t, ht, happ'⟩ := ih happ.between hks (by omega) (by rw [hunrec, List.length_singleton]; omega) htop.2
      refine ⟨t, (execAll_append js ks hu).trans ht, ?_⟩
      rw [List.flatMap_cons, glyphRecords_cons, ← hulen]
      exact happ.trans happ'

/-- A run from any state: `CFG` starts it, and its glyphs follow (R90, R212). -/
theorem execAll_runCommands {d : Depth} {gs : List (Option (Bitmap × Metrics))} (s : State) {is : List Instr}
    (his : runCommands d gs = some is)
    (hroom : ((gs.filterMap id).map (glyphLength d)).sum ≤ Config.params.bsCap)
    (hrec : (gs.filterMap id).length ≤ Config.params.recCap)
    (htop : ∀ g ∈ gs.filterMap id, -32766 ≤ g.2.topBearing) :
    ∃ t, execAll is s = .next t ∧ t.BetweenGlyphs d ∧ t.bytes = (gs.filterMap id).flatMap (glyphBytes d)
      ∧ t.records = glyphRecords d 0 (gs.filterMap id)
      ∧ ∃ rs, t.output = s.output ++ rs ∧ ∀ r ∈ rs, r.status = .ok := by
  obtain ⟨js, hjs, rfl⟩ := Option.map_eq_some_iff.mp his
  obtain ⟨t, ht, hbetween, hbytes, hrecords, rs, hrs, hok⟩ :=
    execAll_glyphsCommands gs (s.startRun_betweenGlyphs d) hjs (by simpa using hroom) (by simpa using hrec) htop
  refine ⟨t, (execAll_cons js (exec_cfg d s)).trans ht, hbetween, hbytes, hrecords, ⟨.ok, 0#128⟩ :: rs, ?_,
    List.forall_mem_cons.mpr ⟨rfl, hok⟩⟩
  rw [hrs]
  exact List.append_assoc ..

/-- Every glyph of a run that has commands has its own. -/
theorem glyphCommands_of_mem {d : Depth} {gs : List (Option (Bitmap × Metrics))} {is : List Instr}
    (his : glyphsCommands d gs = some is) {g : Bitmap × Metrics} (hg : g ∈ gs.filterMap id) :
    ∃ js, glyphCommands d g.1 g.2 = some js := by
  induction gs generalizing is with
  | nil => simp at hg
  | cons a gs ih =>
    cases a with
    | none => exact ih his hg
    | some a =>
      obtain ⟨js, hjs, his⟩ := Option.bind_eq_some_iff.mp his
      obtain ⟨ks, hks, -⟩ := Option.map_eq_some_iff.mp his
      obtain rfl | hg := List.mem_cons.mp (show g ∈ a :: gs.filterMap id from hg)
      · exact ⟨js, hjs⟩
      · exact ih hks hg

/-! ### Reading the result at a record -/

/-- The asset of such a state (R151, R222). -/
theorem State.BetweenGlyphs.asset_eq {d : Depth} {t : State} (h : t.BetweenGlyphs d) (m : HostPart) :
    t.asset m = some ⟨d, t.bytes, t.records, m.first, m.last, m.yAdvance⟩ := by
  rw [State.asset, if_pos h.complete, h.depth_eq]

/-- Where the part of place i begins in the parts of a list one after another. -/
theorem getElem?_flatMap_take {α β : Type} {f : α → List β} {l : List α} {i j : Nat} {a : α} (ha : l[i]? = some a)
    (hj : j < (f a).length) : (l.flatMap f)[((l.take i).map fun a => (f a).length).sum + j]? = (f a)[j]? := by
  induction l generalizing i with
  | nil => simp at ha
  | cons b l ih =>
    cases i with
    | zero =>
      obtain rfl : b = a := by simpa using ha
      rw [List.take_zero, List.map_nil, List.sum_nil, Nat.zero_add, List.flatMap_cons, List.getElem?_append_left hj]
    | succ i =>
      have hi := ih (i := i) (by simpa using ha)
      rw [List.take_succ_cons, List.map_cons, List.sum_cons, List.flatMap_cons,
        List.getElem?_append_right (by omega), Nat.add_assoc, Nat.add_sub_cancel_left, hi]

/-- The fields of a glyph's record, where they fit (R135, R136, R221). -/
theorem glyphRecordAt_fields {m : Bitmap} {q : Metrics} {offset : Nat} (hfits : GlyphFits m q)
    (hoff : offset < 2 ^ 32) (htop : -32766 ≤ q.topBearing) :
    (glyphRecordAt offset (m, q)).width.toNat = m.width ∧ (glyphRecordAt offset (m, q)).height.toNat = m.height
      ∧ (glyphRecordAt offset (m, q)).xAdvance.toInt = q.advance
      ∧ (glyphRecordAt offset (m, q)).xOffset.toInt = q.leftBearing
      ∧ (glyphRecordAt offset (m, q)).yOffset.toInt = 1 - q.topBearing
      ∧ (glyphRecordAt offset (m, q)).offset.toNat = offset := by
  obtain ⟨hw, hh, hadv, hleft, htop'⟩ := hfits
  exact ⟨Nat.mod_eq_of_lt hw, Nat.mod_eq_of_lt hh, metricField_toInt hadv, metricField_toInt hleft,
    metricField_toInt (v := 1 - q.topBearing) (by omega), Nat.mod_eq_of_lt hoff⟩

/-- A glyph's offset fits its field: all the bytes fit the store. -/
theorem sum_take_glyphLength_lt {d : Depth} {gs : List (Bitmap × Metrics)}
    (hroom : (gs.map (glyphLength d)).sum ≤ Config.params.bsCap) (i : Nat) :
    ((gs.take i).map (glyphLength d)).sum < 2 ^ 32 := by
  have hle := ((gs.take_sublist i).map (glyphLength d)).sum_le_sum fun _ _ => Nat.zero_le _
  have := Config.params.bsCap_le
  omega

/-- The bytes at the sum of the lengths before it are the glyph's (R55, R140). -/
theorem getElem?_glyphBytes {d : Depth} {gs : List (Bitmap × Metrics)} {xs : List (BitVec 8)} {m : Bitmap}
    {q : Metrics} {i j : Nat} (hgs : ∀ g ∈ gs, (glyphBytes d g).length = glyphLength d g) (hi : gs[i]? = some (m, q))
    (hxs : m.samples d = some xs) (hj : j < packedLength d.bits (m.width * m.height)) :
    (gs.flatMap (glyphBytes d))[((gs.take i).map (glyphLength d)).sum + j]? = some (unitByte d xs j) := by
  have hj' : j < (glyphBytes d (m, q)).length := (hgs _ (List.mem_of_getElem? hi)).symm ▸ hj
  rw [← List.map_congr_left fun g hg => hgs g (List.mem_of_mem_take hg), getElem?_flatMap_take hi hj',
    glyphBytes_eq (g := (m, q)) hxs, unitBytes, Bitmap.samples_length hxs, List.getElem?_map,
    List.getElem?_range hj, Option.map_some]

/-! ### The code points of a run -/

/-- R172: the code points of the inclusive range. -/
theorem RunInputs.mem_codePoints {n : RunInputs} {c : Nat} : c ∈ n.codePoints ↔ n.first ≤ c ∧ c ≤ n.last := by
  rw [RunInputs.codePoints, List.mem_range'_1]
  omega

theorem RunInputs.mem_recorded {n : RunInputs} {e : Rasteriser} {d : Depth} {c : Nat} :
    c ∈ n.recorded e d ↔ n.first ≤ c ∧ c ≤ n.last ∧ (e.glyph n.fontSize d c).isSome = true := by
  rw [RunInputs.recorded, List.mem_filter, RunInputs.mem_codePoints, and_assoc]

/-- R139: ascending. -/
theorem RunInputs.recorded_pairwise (n : RunInputs) (e : Rasteriser) (d : Depth) :
    (n.recorded e d).Pairwise (· < ·) :=
  List.Pairwise.filter _ List.pairwise_lt_range'

theorem map_some_filterMap_id {α β : Type} (f : α → Option β) (l : List α) :
    ((l.map f).filterMap id).map some = (l.filter fun a => (f a).isSome).map f := by
  induction l with
  | nil => rfl
  | cons a l ih => cases h : f a <;> simp_all

/-- R139, R143: the glyphs of a run are those of its recorded code points, in order. -/
theorem RunInputs.glyphs_recorded (n : RunInputs) (e : Rasteriser) (d : Depth) :
    ((n.glyphs e d).filterMap id).map some = (n.recorded e d).map (e.glyph n.fontSize d) :=
  map_some_filterMap_id _ _

/-- The glyph of record i is that of the i-th recorded code point. -/
theorem RunInputs.glyph_getElem? {n : RunInputs} {e : Rasteriser} {d : Depth} {i c : Nat} {g : Bitmap × Metrics}
    (hi : (n.recorded e d)[i]? = some c) (hc : e.glyph n.fontSize d c = some g) :
    ((n.glyphs e d).filterMap id)[i]? = some g := by
  have h := congrArg (·[i]?) (n.glyphs_recorded e d)
  simp only [List.getElem?_map, hi, Option.map_some, hc] at h
  obtain ⟨g', hg', he⟩ := Option.map_eq_some_iff.mp h
  exact Option.some.inj he ▸ hg'

/-- A conversion that issues commands issues the run's (R172, R173). -/
theorem RunInputs.runCommands_of_conversion {n : RunInputs} {e : Rasteriser} {d : Depth} {is : List Instr}
    (hd : Depth.ofNumber n.depth = some d) (h : n.conversion (some e) = .ok is) :
    runCommands d (n.glyphs e d) = some is := by
  simp only [RunInputs.conversion, hd] at h
  split at h
  · cases h
  · next hrun => rw [hrun, Except.ok.inj h]

/-- Settles O54: the run's bytes and records are those of its glyphs, one after another, so the i-th record's offset is
where the i-th glyph's bytes begin. -/
theorem conversionRecordsHoldTheGlyphs : Obligations.ConversionRecordsHoldTheGlyphs := by
  intro s n e d is hd hconv hroom hrec htop
  have hrun := RunInputs.runCommands_of_conversion hd hconv
  obtain ⟨js, hjs, -⟩ := Option.map_eq_some_iff.mp hrun
  have hcount : ((n.glyphs e d).filterMap id).length = (n.recorded e d).length := by
    simpa using congrArg List.length (n.glyphs_recorded e d)
  obtain ⟨t, hex, hbetween, hbytes, hrecords, -⟩ := execAll_runCommands s hrun hroom (hcount ▸ hrec) htop
  refine ⟨fun _ => RunInputs.mem_recorded, n.recorded_pairwise e d, t, _, hex, hbetween.asset_eq _, ?_, ?_⟩
  · rw [hrecords, glyphRecords_length, hcount]
  · intro i c m q hi hc
    have hg := RunInputs.glyph_getElem? hi hc
    have hmem := List.mem_of_getElem? hg
    obtain ⟨ks, hks⟩ := glyphCommands_of_mem hjs hmem
    obtain ⟨xs, hxs, hfits, -⟩ := glyphCommands_eq_some (m := m) (q := q) hks
    obtain ⟨hw, hh, hadv, hleft, hy, hoff⟩ :=
      glyphRecordAt_fields hfits (sum_take_glyphLength_lt hroom i) (htop _ hmem)
    refine ⟨_, xs, ?_, hxs, hw, hh, hadv, hleft, hy, hoff, fun j hj => ?_⟩
    · rw [hrecords, glyphRecords_getElem? 0 hg, Nat.zero_add]
    · rw [hbytes, hoff]
      exact getElem?_glyphBytes (fun g hg => (glyphCommands_of_mem hjs hg).elim fun _ => glyphBytes_length) hg hxs hj

end Sys2Proof.Machine
end

section
/-! Encoding of a command word (30_encoding.md): the decoder, the encoder and R71's match and mask table agree, and what
the block answers to a word, well formed or not. -/

namespace Sys2Proof

/-! ### From the command to its word and back, and the worked words -/

/-- Settles O1: `decode_encode`, by command. -/
theorem decodeOfEncodeIsTheCommand : Obligations.DecodeOfEncodeIsTheCommand := decode_encode

/-- Settles O5: each of the six words is decoded by evaluation. -/
theorem workedWordsDecodeAsTabled : Obligations.WorkedWordsDecodeAsTabled := ⟨rfl, rfl, rfl, rfl, rfl, rfl⟩

/-! ### A word is its opcode, its zeros and its fields -/

/-- R70, R74: a word whose reserved bits are zero has nothing but its opcode and its fields. -/
theorem wordOf_fields {w : Word} {lo : Nat} (hlo : lo ≤ 56) (hres : reservedZero w lo = true) :
    wordOf (opcodeOf w) (w.extractLsb' 0 lo) = w := by
  have hpayload : w.extractLsb' 0 56 = (w.extractLsb' 0 lo).setWidth 56 := by
    have happ := BitVec.extractLsb'_append_extractLsb'_eq_extractLsb' (x := w) (len₂ := 56 - lo) (Nat.zero_add lo).symm
    rw [eq_of_beq hres] at happ
    rw [BitVec.setWidth_eq_append hlo, happ]
    ext j hj
    simp
  rw [wordOf, ← hpayload]
  exact (BitVec.extractLsb'_append_extractLsb'_eq_extractLsb' rfl).trans BitVec.extractLsb'_eq_self

/-! ### The encoder, by command (R71): the fields of one word are put together again -/

theorem encode_cfg (d : BitVec 4) : encode (.cfg d) = wordOf 0x01#8 d := append_zero_append (k := 52) _ d rfl

theorem encode_enc (x : BitVec 8) : encode (.enc x) = wordOf 0x10#8 x := append_zero_append (k := 48) _ x rfl

theorem encode_commit (f : BitVec 0) : encode .commit = wordOf 0x11#8 f := by rw [f.eq_nil]; rfl

theorem encode_seek (off : BitVec 32) : encode (.seek off) = wordOf 0x20#8 off :=
  append_zero_append (k := 24) _ off rfl

theorem encode_dec (f : BitVec 0) : encode .dec = wordOf 0x21#8 f := by rw [f.eq_nil]; rfl

theorem encode_gbegin_fields (w : Word) :
    encode (.gbegin (w.extractLsb' 0 16) (w.extractLsb' 16 16)) = wordOf 0x30#8 (w.extractLsb' 0 32) := by
  have hfields : w.extractLsb' 16 16 ++ w.extractLsb' 0 16 = w.extractLsb' 0 32 :=
    BitVec.extractLsb'_append_extractLsb'_eq_extractLsb' rfl
  rw [← hfields, ← append_zero_append (k := 24) _ _ rfl]
  exact BitVec.append_assoc

theorem encode_gend_fields (w : Word) :
    encode (.gend (w.extractLsb' 0 16) (w.extractLsb' 16 16) (w.extractLsb' 32 16))
      = wordOf 0x31#8 (w.extractLsb' 0 48) := by
  have hfields : w.extractLsb' 32 16 ++ (w.extractLsb' 16 16 ++ w.extractLsb' 0 16) = w.extractLsb' 0 48 :=
    (congrArg (_ ++ ·) (BitVec.extractLsb'_append_extractLsb'_eq_extractLsb' rfl)).trans
      (BitVec.extractLsb'_append_extractLsb'_eq_extractLsb' rfl)
  rw [← hfields, ← append_zero_append (k := 8) _ _ rfl, encode, BitVec.append_assoc, BitVec.append_assoc]
  rfl

theorem encode_rdrec (idx : BitVec 16) : encode (.rdrec idx) = wordOf 0x40#8 idx :=
  append_zero_append (k := 40) _ idx rfl

theorem encode_rdbs (addr : BitVec 32) : encode (.rdbs addr) = wordOf 0x41#8 addr :=
  append_zero_append (k := 24) _ addr rfl

theorem encode_rdstat (f : BitVec 0) : encode .rdstat = wordOf 0x42#8 f := by rw [f.eq_nil]; rfl

/-! ### What decodes (R73, R74) -/

/-- A row's branch of the decoder: where the word has the row's opcode and decodes, its command is the row's, and the
word is that command's; any other word is left to the rest of the branches. -/
theorem encode_of_branch {w : Word} {op : BitVec 8} {lo : Nat} {i j : Instr} {rest : Except DecodeError Instr}
    (hlo : lo ≤ 56) (henc : encode i = wordOf op (w.extractLsb' 0 lo)) (hrest : rest = .ok j → encode j = w)
    (h : (if opcodeOf w = op then checkReserved w lo i else rest) = .ok j) : encode j = w := by
  by_cases hop : opcodeOf w = op
  · rw [if_pos hop, checkReserved] at h
    by_cases hres : reservedZero w lo = true
    · rw [if_pos hres] at h
      cases h
      rw [henc, ← hop, wordOf_fields hlo hres]
    · rw [if_neg hres] at h
      cases h
  · rw [if_neg hop] at h
    exact hrest h

/-- Settles O2, by the branches of the decoder, one per row; a reserved opcode decodes to nothing. -/
theorem encodeOfDecodeIsTheWord : Obligations.EncodeOfDecodeIsTheWord := by
  intro w i h
  unfold decode at h
  refine encode_of_branch (by decide) (encode_cfg _) (fun h => ?_) h
  refine encode_of_branch (by decide) (encode_enc _) (fun h => ?_) h
  refine encode_of_branch (by decide) (encode_commit _) (fun h => ?_) h
  refine encode_of_branch (by decide) (encode_seek _) (fun h => ?_) h
  refine encode_of_branch (by decide) (encode_dec _) (fun h => ?_) h
  refine encode_of_branch (by decide) (encode_gbegin_fields w) (fun h => ?_) h
  refine encode_of_branch (by decide) (encode_gend_fields w) (fun h => ?_) h
  refine encode_of_branch (by decide) (encode_rdrec _) (fun h => ?_) h
  refine encode_of_branch (by decide) (encode_rdbs _) (fun h => ?_) h
  refine encode_of_branch (by decide) (encode_rdstat _) (fun h => ?_) h
  cases h

/-! ### What R71's match and mask table selects -/

/-- Masking the low bits away leaves the bits above them. -/
theorem extractLsb'_and_shiftLeft_allOnes {w : Word} {lo start len : Nat} (hlo : lo ≤ start) (hlen : start + len ≤ 64) :
    (w &&& BitVec.allOnes 64 <<< lo).extractLsb' start len = w.extractLsb' start len := by
  ext j hj
  have hlow : ¬ start + j < lo := by omega
  have htop : start + j < 64 ∧ start + j - lo < 64 := by omega
  rw [BitVec.getElem_extractLsb', BitVec.getElem_extractLsb', BitVec.getLsbD_and, BitVec.getLsbD_shiftLeft,
    BitVec.getLsbD_allOnes]
  simp [hlow, htop]

/-- A word that a row selects has the row's opcode, zeros in the row's reserved bits, and its own fields. -/
theorem OpcodeRow.wordOf_of_selects {r : OpcodeRow} {w : Word} {op : BitVec 8} {lo : Nat}
    (hop : opcodeOf r.pattern = op) (hlo : lo ≤ 56) (hmask : r.mask = BitVec.allOnes 64 <<< lo)
    (hpat : reservedZero r.pattern lo = true) (h : r.selects w = true) : wordOf op (w.extractLsb' 0 lo) = w := by
  have hw : w &&& BitVec.allOnes 64 <<< lo = r.pattern := hmask ▸ eq_of_beq h
  have hop' : opcodeOf w = op := by
    rw [← hop, ← hw]
    exact (extractLsb'_and_shiftLeft_allOnes hlo (by decide)).symm
  have hres : reservedZero w lo = true := by
    rw [← hpat, ← hw, reservedZero, reservedZero, extractLsb'_and_shiftLeft_allOnes le_rfl (by omega)]
  rw [← hop', wordOf_fields hlo hres]

/-- R71: a word that selects a row of the table is the word of one of the row's commands. -/
theorem exists_encode_of_selects {r : OpcodeRow} {w : Word} (hr : r ∈ opcodeTable) (h : r.selects w = true) :
    ∃ i, encode i = w := by
  simp only [opcodeTable, List.mem_cons, List.not_mem_nil, or_false] at hr
  rcases hr with rfl | rfl | rfl | rfl | rfl | rfl | rfl | rfl | rfl | rfl
  · exact ⟨_, (encode_cfg _).trans (OpcodeRow.wordOf_of_selects rfl (by decide) rfl rfl h)⟩
  · exact ⟨_, (encode_enc _).trans (OpcodeRow.wordOf_of_selects rfl (by decide) rfl rfl h)⟩
  · exact ⟨_, (encode_commit _).trans (OpcodeRow.wordOf_of_selects rfl (by decide) rfl rfl h)⟩
  · exact ⟨_, (encode_seek _).trans (OpcodeRow.wordOf_of_selects rfl (by decide) rfl rfl h)⟩
  · exact ⟨_, (encode_dec _).trans (OpcodeRow.wordOf_of_selects rfl (by decide) rfl rfl h)⟩
  · exact ⟨_, (encode_gbegin_fields w).trans (OpcodeRow.wordOf_of_selects rfl (by decide) rfl rfl h)⟩
  · exact ⟨_, (encode_gend_fields w).trans (OpcodeRow.wordOf_of_selects rfl (by decide) rfl rfl h)⟩
  · exact ⟨_, (encode_rdrec _).trans (OpcodeRow.wordOf_of_selects rfl (by decide) rfl rfl h)⟩
  · exact ⟨_, (encode_rdbs _).trans (OpcodeRow.wordOf_of_selects rfl (by decide) rfl rfl h)⟩
  · exact ⟨_, (encode_rdstat _).trans (OpcodeRow.wordOf_of_selects rfl (by decide) rfl rfl h)⟩

/-- The per-command statements of Laws/PerInstr.lean, together. -/
theorem encodedRow (i : Instr) : Laws.EncodedRow.Statement i := by
  cases i with
  | cfg d => exact Laws.EncodedRow.cfg d
  | enc x => exact Laws.EncodedRow.enc x
  | commit => exact Laws.EncodedRow.commit
  | seek off => exact Laws.EncodedRow.seek off
  | dec => exact Laws.EncodedRow.dec
  | gbegin w h => exact Laws.EncodedRow.gbegin w h
  | gend adv left top => exact Laws.EncodedRow.gend adv left top
  | rdrec idx => exact Laws.EncodedRow.rdrec idx
  | rdbs addr => exact Laws.EncodedRow.rdbs addr
  | rdstat => exact Laws.EncodedRow.rdstat

theorem wellFormedWord_encode (i : Instr) : wellFormedWord (encode i) = true := by
  obtain ⟨-, -, hwf⟩ := encodedRow i
  exact hwf

/-- Settles O3: decoder and table both accept exactly the words of the commands. -/
theorem decodeAcceptsExactlyWellFormedWords : Obligations.DecodeAcceptsExactlyWellFormedWords := by
  intro w
  constructor
  · rintro ⟨i, hdec⟩
    exact encodeOfDecodeIsTheWord w i hdec ▸ wellFormedWord_encode i
  · intro hw
    obtain ⟨r, hr, hsel⟩ := List.any_eq_true.mp hw
    obtain ⟨i, rfl⟩ := exists_encode_of_selects hr hsel
    exact ⟨i, decode_encode i⟩

/-- Every row's mask covers the opcode, so a word that selects the row has its opcode. -/
theorem opcodeOf_of_selects {r : OpcodeRow} {w : Word} (hr : r ∈ opcodeTable) (h : r.selects w = true) :
    opcodeOf w = opcodeOf r.pattern := by
  have hmask : opcodeOf r.mask = BitVec.allOnes 8 :=
    (by decide : ∀ r ∈ opcodeTable, opcodeOf r.mask = BitVec.allOnes 8) r hr
  have hand : opcodeOf (w &&& r.mask) = opcodeOf w &&& opcodeOf r.mask := BitVec.extractLsb'_and
  rw [← eq_of_beq h, hand, hmask, BitVec.and_allOnes]

/-- No two rows have one opcode. -/
theorem opcodeTable_opcode_injective :
    ∀ r ∈ opcodeTable, ∀ r' ∈ opcodeTable, opcodeOf r.pattern = opcodeOf r'.pattern → r = r' := by decide

/-- Settles O4: the word's opcode tells the row. -/
theorem opcodeRowsAreDisjoint : Obligations.OpcodeRowsAreDisjoint :=
  ⟨rfl, fun _ r r' hr hr' h h' => opcodeTable_opcode_injective r hr r' hr'
    ((opcodeOf_of_selects hr h).symm.trans (opcodeOf_of_selects hr' h'))⟩

theorem decode_of_not_wellFormed {w : Word} (h : wellFormedWord w = false) : ∃ e, decode w = .error e := by
  cases hdec : decode w with
  | ok i => simp [(decodeAcceptsExactlyWellFormedWords w).mp ⟨i, hdec⟩] at h
  | error e => exact ⟨e, rfl⟩

/-! ### The reserved opcodes (R75) -/

/-- A list of numbers below n, each once, leaves out as many of the n as it does not hold. -/
theorem length_filter_range_notMem {n : Nat} {l : List Nat} (hnodup : l.Nodup) (hlt : ∀ k ∈ l, k < n) :
    ((List.range n).filter (· ∉ l)).length = n - l.length := by
  have hsub : l.Subperm (List.range n) := hnodup.subperm fun k hk => List.mem_range.mpr (hlt k hk)
  have hlen := (List.subperm_append_diff_self_of_count_le (List.subperm_ext_iff.mp hsub)).length_eq
  rw [List.length_append, List.length_range, List.nodup_range.sdiff_eq_filter] at hlen
  omega

/-- The opcodes of the table as numbers. -/
def opcodeNumbers : List Nat := opcodeTable.map fun r => (opcodeOf r.pattern).toNat

/-- A number below 256 is in no row exactly if it is none of the opcodes' numbers. -/
theorem opcodeTable_all_ne {k : Nat} (hk : k < 256) :
    (opcodeTable.all fun r => r.pattern.extractLsb' 56 8 != BitVec.ofNat 8 k) = decide (k ∉ opcodeNumbers) := by
  have hrow (r : OpcodeRow) : r.pattern.extractLsb' 56 8 = BitVec.ofNat 8 k ↔ (opcodeOf r.pattern).toNat = k := by
    rw [BitVec.toNat_eq, BitVec.toNat_ofNat, Nat.mod_eq_of_lt hk, opcodeOf]
  rw [Bool.eq_iff_iff]
  simp [opcodeNumbers, hrow]

theorem length_reservedOpcodes :
    ((List.range 256).filter fun k => opcodeTable.all fun r =>
      r.pattern.extractLsb' 56 8 != BitVec.ofNat 8 k).length = 246 := by
  have hfilter := List.filter_congr fun k (hk : k ∈ List.range 256) => opcodeTable_all_ne (List.mem_range.mp hk)
  rw [hfilter]
  exact length_filter_range_notMem (l := opcodeNumbers) (by decide) (by decide)

end Sys2Proof

namespace Sys2Proof.Machine

/-! ### What the block answers to a word -/

/-- The fault operation written out on the registers (R76, R181). -/
theorem State.recordFault_answer_eq (c : Status) (s : State) : (s.recordFault c).answer c 0#128
    = { s with fault := if s.fault = .ok then c else s.fault, output := s.output ++ [⟨c, 0#128⟩] } := by
  simp [State.recordFault, State.answer]

/-- Settles O8: a word that selects no row does not decode, and the opcodes in no row are counted. -/
theorem illegalWordRaisesIllegal : Obligations.IllegalWordRaisesIllegal := by
  refine ⟨fun s w rest hin hw => ?_, length_reservedOpcodes⟩
  obtain ⟨e, hdec⟩ := decode_of_not_wellFormed hw
  rw [step_command hin, serveWord_of_decode_error _ hdec, raise, State.recordFault_answer_eq,
    State.takeAction_of_input hin]

/-- No command touches the host's further actions or the responses already returned (logs 2 and 3). -/
theorem Effect.interface_eq {p : Params} {i : Instr} {s u : State} (he : Effect p s i u) :
    u.input = s.input ∧ u.output = s.output := by
  cases he with
  | cfg | enc | commit | seek | dec | gbegin | gend | rdrec | rdbs | rdstat => simp

/-- R76: a word served leaves the host's further actions and appends one response, with data 0 on a fault. -/
theorem serveWord_response {w : BitVec 64} {s t : State} (h : serveWord exec w s = .next t) :
    t.input = s.input ∧ ∃ r, t.output = s.output ++ [r] ∧ (r.status ≠ .ok → r.data = 0#128) := by
  have hcases : Raised s t ∨ ∃ i u v, Effect Config.params s i u ∧ t = u.answer .ok v := by
    rcases serveWord_next h with hr | ⟨i, -, hex⟩
    · exact .inl hr
    · exact (execAt_next (exec_eq_execAt i s ▸ hex)).imp_right fun ⟨u, v, hu⟩ => ⟨i, u, v, hu⟩
  rcases hcases with ⟨c, -, -, rfl⟩ | ⟨i, u, v, hu, rfl⟩
  · exact ⟨rfl, ⟨c, 0#128⟩, rfl, fun _ => rfl⟩
  · obtain ⟨hin, hout⟩ := hu.interface_eq
    exact ⟨hin, ⟨.ok, v⟩, by rw [State.answer_output, hout], fun hne => absurd rfl hne⟩

/-- Settles O15: the word is off the list before it is served, and serving it appends its response. -/
theorem oneResponsePerCommand : Obligations.OneResponsePerCommand := by
  intro s t w rest hin h
  rw [step_command hin, State.takeAction_of_input hin] at h
  exact serveWord_response h

end Sys2Proof.Machine
end

section
/-! `CFG`, `RDSTAT` (40_config.md) and the read-out of a run (R151 of 44_readback.md, R222 of
70_reset_and_hazards.md). -/

namespace Sys2Proof

/-- R70 to R74: a word decodes to a command exactly if it is the command's word. -/
theorem decode_eq_ok_iff {w : Word} {i : Instr} : decode w = .ok i ↔ w = encode i :=
  ⟨fun h => (encodeOfDecodeIsTheWord w i h).symm, fun h => h ▸ decode_encode i⟩

end Sys2Proof

namespace Sys2Proof.Machine

/-! ### `CFG` (R90, R91) -/

theorem Depth.ofField_eq_none {f : BitVec 4} (h : f ∉ [1#4, 2#4, 4#4, 8#4]) : Depth.ofField f = none := by
  simp only [List.mem_cons, List.not_mem_nil, or_false, not_or] at h
  obtain ⟨h1, h2, h4, h8⟩ := h
  rw [Depth.ofField, if_neg h1, if_neg h2, if_neg h4, if_neg h8]

theorem exec_cfg_illegal {f : BitVec 4} (s : State) (h : f ∉ [1#4, 2#4, 4#4, 8#4]) :
    exec (.cfg f) s = raise .config s := by
  show execCfg f s = _
  rw [execCfg, Depth.ofField_eq_none h]

/-- The four legal operands are the numbers of their depths. -/
theorem Depth.field_of_mem {f : BitVec 4} {d : Depth}
    (h : (f, d) ∈ [(1#4, Depth.one), (2#4, .two), (4#4, .four), (8#4, .eight)]) : f = BitVec.ofNat 4 d.bits := by
  simp only [List.mem_cons, List.not_mem_nil, or_false, Prod.mk.injEq] at h
  rcases h with ⟨rfl, rfl⟩ | ⟨rfl, rfl⟩ | ⟨rfl, rfl⟩ | ⟨rfl, rfl⟩ <;> rfl

/-- Settles O16: a legal operand starts a run from the reset state, any other raises `F_CONFIG`. -/
theorem cfgStartsARun : Obligations.CfgStartsARun := by
  refine ⟨fun w d => decode_eq_ok_iff, fun s d hd => exec_cfg_illegal s hd, fun s d e he => ?_⟩
  rw [Depth.field_of_mem he, exec_cfg]
  rfl

/-- Settles O17: raising a fault writes `FAULT` and the response, nothing else. -/
theorem cfgRejectsOtherDepths : Obligations.CfgRejectsOtherDepths := by
  intro s d hd
  rw [exec_cfg_illegal s hd, raise, State.recordFault_answer_eq]

/-! ### `RDSTAT`: the other bits of the status word (R93) -/

/-- Each field ends where the next begins: dropping the fields below it and cutting off those above it leaves it. -/
theorem statusWord_upper_fields (s : State) :
    s.statusWord.extractLsb' 61 1 = BitVec.ofBool s.uvalid ∧ s.statusWord.extractLsb' 62 2 = 0#2
      ∧ s.statusWord.extractLsb' 64 32 = s.uptr ∧ s.statusWord.extractLsb' 96 4 = s.ucur
      ∧ s.statusWord.extractLsb' 100 8 = s.acc ∧ s.statusWord.extractLsb' 108 20 = 0#20 := by
  refine ⟨?_, ?_, ?_, ?_, ?_, ?_⟩ <;>
    simp (disch := decide) only [State.statusWord, BitVec.extractLsb'_append_eq_of_le,
      BitVec.extractLsb'_append_eq_of_add_le, Nat.reduceSub, BitVec.extractLsb'_eq_self]

theorem statusWord_uvalid (s : State) : s.statusWord.getLsbD 61 = s.uvalid := by
  obtain ⟨h, -⟩ := statusWord_upper_fields s
  simpa using congrArg (fun x => x.getLsbD 0) h

/-- Settles O18: the answer is the status word, whose bits are read field by field. -/
theorem rdstatReturnsTheStatusWord : Obligations.RdstatReturnsTheStatusWord := by
  refine ⟨fun _ => decode_eq_ok_iff, fun s => ⟨s.statusWord, rfl, ?_⟩⟩
  obtain ⟨-, hgap, huptr, hucur, hacc, htop⟩ := statusWord_upper_fields s
  exact ⟨statusWord_len s, statusWord_nrec s, statusWord_fault s, statusWord_depth s, statusWord_cur s,
    statusWord_gopen s, statusWord_uvalid s, hgap, huptr, hucur, hacc, htop⟩

/-! ### Commands that only answer -/

/-- R141. -/
theorem exec_rdrec {s : State} {d : Depth} {idx : BitVec 16} {r : Record} (hf : s.fault = .ok)
    (hd : s.depth = .configured d) (hlt : idx.toNat < s.nrec.toNat) (hr : Memory.read s.recs idx.toNat = some r) :
    exec (.rdrec idx) s = .next (s.answer .ok (zext128 r.pack)) := by
  show execRdrec idx s = _
  rw [execRdrec, whenReady_ready hf hd, if_neg (by omega), hr]
  rfl

/-- R150. -/
theorem exec_rdbs {s : State} {d : Depth} {addr : BitVec 32} {b : BitVec 8} (hf : s.fault = .ok)
    (hd : s.depth = .configured d) (hlt : addr.toNat < s.len.toNat) (hb : Memory.read s.bs addr.toNat = some b) :
    exec (.rdbs addr) s = .next (s.answer .ok (zext128 b)) := by
  show execRdbs addr s = _
  rw [execRdbs, whenReady_ready hf hd, if_neg (by omega), hb]
  rfl

/-- The state after these further responses and no other change. -/
def State.withResponses (rs : List Response) (s : State) : State := { s with output := s.output ++ rs }

theorem State.withResponses_answer (rs : List Response) (st : Status) (v : BitVec 128) (s : State) :
    (s.withResponses rs).answer st v = s.withResponses (rs ++ [⟨st, v⟩]) := by
  simp [State.withResponses, State.answer]

/-- The command's response is r, and nothing else changes, whatever responses came before. -/
def State.Answers (s : State) (i : Instr) (r : Response) : Prop :=
  ∀ rs, exec i (s.withResponses rs) = .next (s.withResponses (rs ++ [r]))

/-- Commands that only answer, one after another. -/
theorem execAll_of_answers {α : Type} {f : α → Instr} {g : α → Response} {s : State} {l : List α}
    (h : ∀ a ∈ l, s.Answers (f a) (g a)) (rs : List Response) :
    execAll (l.map f) (s.withResponses rs) = .next (s.withResponses (rs ++ l.map g)) := by
  induction l generalizing rs with
  | nil => simp
  | cons a l ih =>
    obtain ⟨ha, hl⟩ := List.forall_mem_cons.mp h
    rw [List.map_cons, execAll_cons _ (ha rs), ih hl, List.map_cons, List.append_assoc, List.singleton_append]

/-! ### Reading a run out (R151) -/

/-- A listed cell reads as its value. -/
theorem Memory.read_of_mem {α : Type} {m : List (Nat × α)} {n : Nat} (h : m.map Prod.fst = List.range n)
    {c : Nat × α} (hc : c ∈ m) : Memory.read m c.1 = some c.2 := by
  obtain ⟨i, hi, rfl⟩ := List.getElem_of_mem hc
  have hkey : m[i].1 = i := by
    have hi' : i < (m.map Prod.fst).length := by simpa using hi
    simpa only [List.getElem_map, List.getElem_range] using List.getElem_of_eq h hi'
  rw [Memory.read_eq_getElem h, hkey, List.getElem?_eq_getElem hi, Option.map_some]

/-- The response to `RDBS` at a cell's address. -/
def byteResponse (c : Host.Cell) : Response := ⟨.ok, zext128 c.2⟩

/-- The response to `RDREC` at a cell's index. -/
def recordResponse (c : Nat × Record) : Response := ⟨.ok, zext128 c.2.pack⟩

/-- The responses to the read-out commands after `RDSTAT` (R151). -/
def State.readOutResponses (s : State) : List Response := s.bs.map byteResponse ++ s.recs.map recordResponse

section
variable {d : Depth} {s : State}

theorem State.BetweenGlyphs.answers_rdbs (h : s.BetweenGlyphs d) {c : Host.Cell} (hc : c ∈ s.bs) :
    s.Answers (.rdbs (BitVec.ofNat 32 c.1)) (byteResponse c) := by
  intro rs
  have hlt : c.1 < s.len.toNat := Memory.key_lt h.inv.store.bs_cells hc
  have haddr : (BitVec.ofNat 32 c.1).toNat = c.1 := Nat.mod_eq_of_lt (hlt.trans s.len.isLt)
  obtain ⟨hf, -, -, -⟩ := h.complete
  rw [byteResponse, ← State.withResponses_answer]
  exact exec_rdbs hf h.depth_eq (haddr.symm ▸ hlt)
    (haddr.symm ▸ Memory.read_of_mem h.inv.store.bs_cells hc)

theorem State.BetweenGlyphs.answers_rdrec (h : s.BetweenGlyphs d) {c : Nat × Record} (hc : c ∈ s.recs) :
    s.Answers (.rdrec (BitVec.ofNat 16 c.1)) (recordResponse c) := by
  intro rs
  have hlt : c.1 < s.nrec.toNat := Memory.key_lt h.inv.store.rec_cells hc
  have hidx : (BitVec.ofNat 16 c.1).toNat = c.1 := Nat.mod_eq_of_lt (hlt.trans s.nrec.isLt)
  obtain ⟨hf, -, -, -⟩ := h.complete
  rw [recordResponse, ← State.withResponses_answer]
  exact exec_rdrec hf h.depth_eq (hidx.symm ▸ hlt)
    (hidx.symm ▸ Memory.read_of_mem h.inv.store.rec_cells hc)

/-- The addresses and indices the host reads are those of the cells that have a value (R26, R35). -/
theorem State.BetweenGlyphs.readOutCommands_eq (h : s.BetweenGlyphs d) :
    readOutCommands ⟨d, s.len, s.nrec⟩ = s.bs.map (fun c => .rdbs (BitVec.ofNat 32 c.1))
      ++ s.recs.map (fun c => .rdrec (BitVec.ofNat 16 c.1)) := by
  rw [readOutCommands, ← h.inv.store.bs_cells, ← h.inv.store.rec_cells, List.map_map, List.map_map]
  rfl

/-- R151: the read-out's commands answer the bytes and the records and change no register. -/
theorem State.BetweenGlyphs.execAll_readOut (h : s.BetweenGlyphs d) :
    execAll (.rdstat :: readOutCommands ⟨d, s.len, s.nrec⟩) s
      = .next (s.withResponses (⟨.ok, s.statusWord⟩ :: s.readOutResponses)) := by
  have hstat : exec .rdstat s = .next (s.withResponses [⟨.ok, s.statusWord⟩]) := rfl
  rw [execAll_cons _ hstat, h.readOutCommands_eq,
    execAll_append _ _ (execAll_of_answers (fun _ hc => h.answers_rdbs hc) _),
    execAll_of_answers (fun _ hc => h.answers_rdrec hc), List.append_assoc, List.singleton_append]
  rfl

/-- The host puts the stores together again (R151). -/
theorem State.BetweenGlyphs.report_asset_eq (h : s.BetweenGlyphs d) (m : HostPart) :
    RunReport.asset ⟨d, s.len, s.nrec⟩ m s.readOutResponses = s.asset m := by
  have hbs : (s.bs.map byteResponse).length = s.len.toNat := by simpa using h.bytes_length
  have hrecs : (s.recs.map recordResponse).length = s.nrec.toNat := by simpa using h.records_length
  have hok : s.readOutResponses.all (fun r => decide (r.status = .ok)) = true := by
    simp [State.readOutResponses, byteResponse, recordResponse]
  have hbytes : (s.bs.map byteResponse).map (fun r => r.data.setWidth 8) = s.bytes := by
    simp [byteResponse, zext128]
  have hrecords : (s.recs.map recordResponse).map (fun r => recordOfData r.data) = s.records := by
    simp [recordResponse]
  rw [h.asset_eq, RunReport.asset, if_pos ⟨by rw [State.readOutResponses, List.length_append, hbs, hrecs], hok⟩,
    State.readOutResponses, List.take_left' hbs, List.drop_left' hbs, hbytes, hrecords]

end

theorem State.runComplete.betweenGlyphs {s : State} (h : s.runComplete) (hs : s.Inv Config.params) :
    ∃ d, s.BetweenGlyphs d := by
  obtain ⟨-, hconf, -, -⟩ := id h
  cases hd : s.depth with
  | notConfigured => exact absurd hd hconf
  | configured d => exact ⟨d, hs, h, hd⟩

/-- Settles O52: the status word tells a complete run from any other, and of a complete one the responses are the cells
of the two stores in order. -/
theorem readOutReturnsTheAsset : Obligations.ReadOutReturnsTheAsset := by
  refine fun s m hs => ⟨fun hc => ?_, fun hc => ?_⟩
  · obtain ⟨d, h⟩ := hc.betweenGlyphs hs
    exact ⟨⟨.ok, s.statusWord⟩, ⟨d, s.len, s.nrec⟩, s.readOutResponses,
      ⟨d, s.bytes, s.records, m.first, m.last, m.yAdvance⟩, rfl, RunReport.ofResponse_complete hc h.depth_eq,
      h.execAll_readOut, (h.report_asset_eq m).trans (h.asset_eq m), h.asset_eq m, h.depth_eq, rfl, rfl, rfl,
      h.bytes_length, h.records_length,
      fun i _ => by rw [Memory.read_eq_getElem hs.store.bs_cells, List.getElem?_map],
      fun i _ => by rw [Memory.read_eq_getElem hs.store.rec_cells, List.getElem?_map]⟩
  · exact ⟨by rw [State.asset, if_neg hc], ⟨.ok, s.statusWord⟩, rfl, RunReport.ofResponse_incomplete hc⟩

end Sys2Proof.Machine
end

section
/-! The packer: the mask (R100), `ENC` (R101 to R103) and `COMMIT` (R104 to R106) of 41_packer.md. -/

namespace Sys2Proof.Machine

/-! ### A fault in a block that has none yet, and the common checks (R181, R186) -/

/-- The first fault is recorded (R181). -/
theorem raise_of_ok {s : State} (c : Status) (hf : s.fault = .ok) :
    raise c s = .next { s with fault := c, output := s.output ++ [⟨c, 0#128⟩] } := by
  rw [raise, State.recordFault_answer_eq, if_pos hf]

/-- A locked block answers `F_LOCKED` and keeps the fault that locked it (R182). -/
theorem raise_locked {s : State} (hf : s.isLocked) :
    raise .locked s = .next { s with output := s.output ++ [⟨.locked, 0#128⟩] } := by
  rw [raise, State.recordFault_answer_eq, if_neg hf]

/-- Every command but `CFG` and `RDSTAT` makes the common checks first (R186). -/
theorem exec_eq_whenReady {i : Instr} (hcfg : ∀ d, i ≠ .cfg d) (hstat : i ≠ .rdstat) (s : State) :
    ∃ body, exec i s = whenReady s body := by
  cases i with
  | cfg d => exact absurd rfl (hcfg d)
  | rdstat => exact absurd rfl hstat
  | enc | commit | seek | dec | gbegin | gend | rdrec | rdbs => exact ⟨_, rfl⟩

theorem commonChecks {i : Instr} (hcfg : ∀ d, i ≠ .cfg d) (hstat : i ≠ .rdstat) : CommonChecks i := by
  intro s
  obtain ⟨body, hbody⟩ := exec_eq_whenReady hcfg hstat s
  rw [hbody]
  exact ⟨fun hf => by rw [whenReady_locked hf, raise_locked hf],
    fun hf hd => by rw [whenReady_notConfigured hf hd, raise_of_ok _ hf]⟩

/-! ### The mask (R100) -/

theorem Depth.mask_toNat (d : Depth) : d.mask.toNat = 2 ^ d.bits - 1 := by cases d <;> rfl

theorem maskSample_toNat (d : Depth) (x : BitVec 8) : (maskSample d x).toNat = x.toNat % 2 ^ d.bits := by
  rw [maskSample, BitVec.toNat_and, Depth.mask_toNat, Nat.and_two_pow_sub_one_eq_mod]

theorem maskSample_idem (d : Depth) (x : BitVec 8) : maskSample d (maskSample d x) = maskSample d x := by
  rw [maskSample, maskSample, BitVec.and_assoc, BitVec.and_self]

theorem maskSample_eight (x : BitVec 8) : maskSample .eight x = x := BitVec.and_allOnes

/-- The packer takes of a sample its masked value only. -/
theorem State.packSample_maskSample (d : Depth) (x : BitVec 8) (s : State) :
    s.packSample d (maskSample d x) = s.packSample d x := by
  simp only [State.packSample, placeSample, maskSample_idem]

/-- In a configured block `ENC` depends on its operand through `packSample` alone, whatever the checks answer. -/
theorem exec_enc_congr {s : State} {d : Depth} {x y : BitVec 8} (hd : s.depth = .configured d)
    (h : s.packSample d x = s.packSample d y) : exec (.enc x) s = exec (.enc y) s := by
  show encAt Config.params x s = encAt Config.params y s
  simp only [encAt, whenReady, hd, h]

/-- Settles O19: masking is the remainder modulo a power of two, and masking twice is masking once. -/
theorem maskKeepsTheLowBits : Obligations.MaskKeepsTheLowBits :=
  ⟨rfl, rfl, rfl, rfl, maskSample_toNat, fun s d x hd => (exec_enc_congr hd (s.packSample_maskSample d x)).symm⟩

/-! ### `ENC` (R101) -/

theorem exec_enc_glyphFull {s : State} {d : Depth} (x : BitVec 8) (hf : s.fault = .ok)
    (hd : s.depth = .configured d) (hcnt : s.glyphFull) : exec (.enc x) s = raise .count s := by
  show encAt Config.params x s = _
  rw [encAt, whenReady_ready hf hd, if_pos hcnt]

theorem exec_enc_bsFull {s : State} {d : Depth} (x : BitVec 8) (hf : s.fault = .ok)
    (hd : s.depth = .configured d) (hcnt : ¬ s.glyphFull) (hcap : s.cur.toNat + d.bits = 8 ∧ s.bsFull Config.params) :
    exec (.enc x) s = raise .cap s := by
  show encAt Config.params x s = _
  rw [encAt, whenReady_ready hf hd, if_neg hcnt, if_pos hcap]

/-- A sample that does not complete the byte. -/
theorem State.packSample_eq_lane {s : State} {d : Depth} (x : BitVec 8) (h : s.cur.toNat + d.bits < 8) :
    s.packSample d x = { s with
      acc := s.acc ||| placeSample d x s.cur.toNat
      cur := BitVec.ofNat 4 (s.cur.toNat + d.bits)
      gCnt := if s.gopen then s.gCnt + 1#32 else s.gCnt } := by
  rw [State.packSample, if_neg (Nat.not_le.mpr h), BitVec.ofNat_add, BitVec.ofNat_toNat, BitVec.setWidth_eq]
  rfl

/-- A sample that completes the byte. -/
theorem State.packSample_eq_byte {s : State} {d : Depth} (x : BitVec 8) (h : 8 ≤ s.cur.toNat + d.bits) :
    s.packSample d x = { s with
      bs := Memory.write s.bs s.len.toNat (s.acc ||| placeSample d x s.cur.toNat)
      len := s.len + 1#32
      acc := 0#8
      cur := 0#4
      gCnt := if s.gopen then s.gCnt + 1#32 else s.gCnt } := by
  rw [State.packSample, if_pos h]
  rfl

/-- Settles O20: the checks in R186's order, then the sample fills a lane or completes the byte. -/
theorem encPacksOneSample : Obligations.EncPacksOneSample := by
  refine ⟨fun w x => decode_eq_ok_iff, fun x => commonChecks nofun nofun, fun s d x hf hd =>
    ⟨fun hcnt => ?_, fun hcnt hcur hlen => ?_, fun hcnt hlt => ?_, fun hcnt hle hcap => ?_⟩⟩
  · rw [exec_enc_glyphFull x hf hd hcnt, raise_of_ok _ hf]
  · rw [exec_enc_bsFull x hf hd hcnt ⟨hcur, hlen⟩, raise_of_ok _ hf]
  · rw [exec_enc x hf hd hcnt fun h => hlt.ne h.1, State.packSample_eq_lane x hlt]
    rfl
  · rw [exec_enc x hf hd hcnt hcap, State.packSample_eq_byte x hle]
    rfl

/-! ### `SEEK` and `DEC` that pass their checks -/

/-- R116. -/
theorem exec_seek {s : State} {d : Depth} (off : BitVec 32) (hf : s.fault = .ok) (hd : s.depth = .configured d) :
    exec (.seek off) s = .next ((s.seekTo off).answer .ok 0#128) := by
  show execSeek off s = _
  rw [execSeek, whenReady_ready hf hd, respond]

/-- R118. -/
theorem exec_dec {s : State} {d : Depth} {b : BitVec 8} (hf : s.fault = .ok) (hd : s.depth = .configured d)
    (hv : s.uvalid = true) (hlt : s.uptr.toNat < s.len.toNat) (hb : Memory.read s.bs s.uptr.toNat = some b) :
    exec .dec s = .next ((s.nextLane d).answer .ok (zext128 (sampleAt d b s.ucur.toNat))) := by
  show execDec s = _
  rw [execDec, whenReady_ready hf hd, if_neg (by simp [hv]), if_neg (by omega), hb]
  rfl

/-! ### Depth 8 (R103) -/

/-- R39(a), (b): at depth 8 the decoder stands at the start of a byte. -/
theorem State.UnpkInv.ucur_eight {s : State} (h : s.UnpkInv) (hd : s.depth = .configured .eight) : s.ucur = 0#4 :=
  BitVec.eq_of_toNat_eq (Nat.eq_zero_of_dvd_of_lt (h.ucur_lane .eight hd) h.ucur_lt)

/-- With nothing pending, a sample at depth 8 is the byte. -/
theorem State.packSample_eight {s : State} (x : BitVec 8) (hacc : s.acc = 0#8) (hcur : s.cur = 0#4) :
    s.packSample .eight x = { s with
      bs := Memory.write s.bs s.len.toNat x
      len := s.len + 1#32
      gCnt := if s.gopen then s.gCnt + 1#32 else s.gCnt } := by
  have hbyte : s.acc ||| placeSample .eight x s.cur.toNat = x := by
    rw [hacc, hcur, placeSample, maskSample_eight]
    simp
  rw [State.packSample_eq_byte x (Nat.le_add_left 8 _), hbyte, ← hacc, ← hcur]

theorem State.nextLane_eight {s : State} (hcur : s.ucur = 0#4) :
    s.nextLane .eight = { s with uptr := s.uptr + 1#32 } := by
  have hfull : 8 ≤ s.ucur.toNat + Depth.eight.bits := Nat.le_add_left 8 _
  rw [State.nextLane, if_pos hfull, ← hcur]

theorem sampleAt_eight (b : BitVec 8) : sampleAt .eight b 0 = b := by
  rw [sampleAt, BitVec.ushiftRight_zero]
  exact maskSample_eight b

/-- Settles O22: R38 and R39 put both cursors at 0 at depth 8, so the lane is the whole byte. -/
theorem depthEightIsTheIdentity : Obligations.DepthEightIsTheIdentity := by
  refine ⟨fun s x hinv hf hd hcnt hlen => ?_, fun s x hinv hf hd hv hlt hx => ?_⟩
  · have hcur := hinv.eight_zero hd
    rw [exec_enc x hf hd hcnt fun h => hlen h.2, State.packSample_eight x (hinv.acc_zero hcur) hcur]
    rfl
  · have hcur := hinv.ucur_eight hd
    rw [exec_dec hf hd hv hlt hx, State.nextLane_eight hcur, hcur, BitVec.toNat_zero, sampleAt_eight]
    rfl

/-! ### `COMMIT` (R105, R106) -/

/-- R105. -/
theorem exec_commit {s : State} {d : Depth} (hf : s.fault = .ok) (hd : s.depth = .configured d)
    (hg : s.gopen = false) (hcap : ¬ (s.bytePending ∧ s.bsFull Config.params)) :
    exec .commit s = .next (s.flush.answer .ok 0#128) := by
  show commitAt Config.params s = _
  rw [commitAt, whenReady_ready hf hd, if_neg (by simp [hg]), if_neg hcap, respond]

theorem exec_commit_inGlyph {s : State} {d : Depth} (hf : s.fault = .ok) (hd : s.depth = .configured d)
    (hg : s.gopen = true) : exec .commit s = raise .seq s := by
  show commitAt Config.params s = _
  rw [commitAt, whenReady_ready hf hd, if_pos hg]

theorem exec_commit_bsFull {s : State} {d : Depth} (hf : s.fault = .ok) (hd : s.depth = .configured d)
    (hg : s.gopen = false) (hcap : s.bytePending ∧ s.bsFull Config.params) : exec .commit s = raise .cap s := by
  show commitAt Config.params s = _
  rw [commitAt, whenReady_ready hf hd, if_neg (by simp [hg]), if_pos hcap]

/-- A flush with nothing pending does nothing (R104). -/
theorem State.flush_of_empty {s : State} (h : s.cur = 0#4) : s.flush = s := by
  rw [State.flush, if_neg (not_not.mpr h)]

/-- A flush appends the pending byte (R104). -/
theorem State.flush_of_pending {s : State} (h : s.bytePending) :
    s.flush = { s with
      bs := Memory.write s.bs s.len.toNat s.acc
      len := s.len + 1#32
      acc := 0#8
      cur := 0#4 } := by
  rw [State.flush, if_pos h]
  rfl

/-- Settles O23: the checks in R186's order, then a flush with or without a byte pending. -/
theorem commitFlushesThePendingByte : Obligations.CommitFlushesThePendingByte := by
  refine ⟨fun w => decode_eq_ok_iff, commonChecks nofun nofun, fun s d hf hd =>
    ⟨fun hg => ?_, fun hg hcur hlen => ?_, fun hg hcur => ?_, fun hg hcur hlen => ?_⟩⟩
  · rw [exec_commit_inGlyph hf hd hg, raise_of_ok _ hf]
  · rw [exec_commit_bsFull hf hd hg ⟨hcur, hlen⟩, raise_of_ok _ hf]
  · rw [exec_commit hf hd hg fun h => h.1 hcur, State.flush_of_empty hcur]
    rfl
  · rw [exec_commit hf hd hg fun h => hlen h.2, State.flush_of_pending hcur]
    rfl

end Sys2Proof.Machine
end

section
/-! A unit of encoding (R107 to R109 of 41_packer.md): its bytes in the store, and its samples back through the
unpacker. -/

namespace Sys2Proof.Machine

/-! ### What a command sequence appended, read from the stores -/

section
variable {d : Depth} {bs : List (BitVec 8)} {rs : List Record} {s t : State}

theorem State.BetweenGlyphs.read_bs (h : s.BetweenGlyphs d) (a : Nat) : Memory.read s.bs a = s.bytes[a]? := by
  rw [Memory.read_eq_getElem h.inv.store.bs_cells, State.bytes, List.getElem?_map]

theorem State.BetweenGlyphs.read_recs (h : s.BetweenGlyphs d) (k : Nat) : Memory.read s.recs k = s.records[k]? := by
  rw [Memory.read_eq_getElem h.inv.store.rec_cells, State.records, List.getElem?_map]

/-- The bytes below stay (R53). -/
theorem State.Appends.read_bs_below (h : s.Appends d bs rs t) (hs : s.BetweenGlyphs d) {a : Nat}
    (ha : a < s.len.toNat) : Memory.read t.bs a = Memory.read s.bs a := by
  rw [h.between.read_bs, hs.read_bs, h.bytes_eq, List.getElem?_append_left (hs.bytes_length ▸ ha)]

/-- The appended bytes stand from the old `LEN` on. -/
theorem State.Appends.read_bs_appended (h : s.Appends d bs rs t) (hs : s.BetweenGlyphs d) (j : Nat) :
    Memory.read t.bs (s.len.toNat + j) = bs[j]? := by
  rw [h.between.read_bs, h.bytes_eq, ← hs.bytes_length, List.getElem?_append_right (Nat.le_add_right _ _),
    Nat.add_sub_cancel_left]

/-- The appended records stand from the old `NREC` on. -/
theorem State.Appends.read_recs_appended (h : s.Appends d bs rs t) (hs : s.BetweenGlyphs d) (k : Nat) :
    Memory.read t.recs (s.nrec.toNat + k) = rs[k]? := by
  rw [h.between.read_recs, h.records_eq, ← hs.records_length, List.getElem?_append_right (Nat.le_add_right _ _),
    Nat.add_sub_cancel_left]

end

theorem unitBytes_getElem? {d : Depth} {xs : List (BitVec 8)} {j : Nat} (hj : j < packedLength d.bits xs.length) :
    (unitBytes d xs)[j]? = some (unitByte d xs j) := by
  rw [unitBytes, List.getElem?_map, List.getElem?_range hj, Option.map_some]

/-! ### A unit encoded and flushed (R108) -/

section
variable {d : Depth} {xs : List (BitVec 8)} {s : State}

/-- A unit that fits has room for its pending byte. -/
theorem State.UnitReady.flush_room (h : s.UnitReady d xs.length) :
    ¬ ((s.withUnit d xs).bytePending ∧ (s.withUnit d xs).bsFull Config.params) := by
  rintro ⟨hp, hfull⟩
  have hroom := h.room
  rw [State.bytePending_iff, State.withUnit_cur] at hp
  rw [State.bsFull, h.withUnit_len] at hfull
  unfold packedLength at hroom
  omega

/-- The block takes a unit outside a glyph. -/
theorem State.BetweenGlyphs.unitReady_outside (hs : s.BetweenGlyphs d) {n : Nat}
    (hroom : s.len.toNat + packedLength d.bits n ≤ Config.params.bsCap) : s.UnitReady d n := by
  obtain ⟨hf, -, hg, hcur⟩ := hs.complete
  exact ⟨hf, hs.depth_eq, hs.inv.pack.acc_zero hcur, hcur, hs.inv.store.bs_cells, hroom, by simp [hg]⟩

/-- Samples and one `COMMIT` outside a glyph append the unit's bytes. -/
theorem execAll_commitUnit (hs : s.BetweenGlyphs d)
    (hroom : s.len.toNat + packedLength d.bits xs.length ≤ Config.params.bsCap) :
    ∃ t, execAll (xs.map .enc ++ [.commit]) s = .next t ∧ s.Appends d (unitBytes d xs) [] t
      ∧ t.output = s.output ++ List.replicate (xs.length + 1) ⟨.ok, 0#128⟩ := by
  obtain ⟨hf, hd, hg, -⟩ := hs.complete
  have hready := hs.unitReady_outside hroom
  have hcommit := exec_commit (s := s.withUnit d xs) hf hs.depth_eq hg hready.flush_room
  have hex := (execAll_append _ [.commit] (execAll_enc xs hready)).trans (execAll_cons [] hcommit)
  have hout : ((s.withUnit d xs).flush.answer .ok 0#128).output
      = s.output ++ List.replicate (xs.length + 1) ⟨.ok, 0#128⟩ := by
    simp [State.withUnit, List.replicate_succ']
  refine ⟨_, hex, ⟨⟨execAll_inv hs.inv hex, ⟨?_, ?_, ?_, ?_⟩, ?_⟩, hready.flush_bytes, ?_, _, hout, ?_⟩, hout⟩
  · simpa [State.withUnit] using hf
  · simpa [State.withUnit] using hd
  · simpa [State.withUnit] using hg
  · simp
  · simpa [State.withUnit] using hs.depth_eq
  · simp [State.withUnit, State.records]
  · exact fun r hr => by rw [List.eq_of_mem_replicate hr]

/-- The responses to a glyph issued whole: `OK` with data 0, and last the index of its record. -/
theorem execAll_glyph_output {t : State} {w h top : BitVec 16} (adv left : BitVec 16)
    (hs : s.BetweenGlyphs d) (hn : xs.length = w.toNat * h.toNat)
    (hroom : s.len.toNat + packedLength d.bits xs.length ≤ Config.params.bsCap)
    (hrec : ¬ s.recFull Config.params) (htop : yOffsetOf top ≤ 32767)
    (ht : execAll (.gbegin w h :: xs.map .enc ++ [.gend adv left top]) s = .next t) :
    t.output = s.output ++ List.replicate (xs.length + 1) ⟨.ok, 0#128⟩ ++ [⟨.ok, zext128 s.nrec⟩] := by
  obtain ⟨hf, -, hg, hcur⟩ := hs.complete
  have hready := hs.unitReady hn hroom
  have hopen := (execAll_cons _ (exec_gbegin w h hf hs.depth_eq hg hcur hrec)).trans (execAll_enc xs hready)
  have hend := hready.exec_gend rfl (by simp [hn, State.glyphSize]) adv left htop
  rw [execAll_append _ _ hopen, execAll_cons [] hend] at ht
  cases ht
  simp [State.withUnit, List.replicate_succ]

end

/-- Settles O46: the unit's bytes are appended by `COMMIT` as by `GEND`, and reading the store is taking a byte of the
list. -/
theorem unitOfEncodingLayout : Obligations.UnitOfEncodingLayout := by
  intro s d xs hinv hf hd hcur hg hroom
  have hs : s.BetweenGlyphs d := ⟨hinv, ⟨hf, by simp [hd], hg, hcur⟩, hd⟩
  constructor
  · obtain ⟨t, hex, happ, hout⟩ := execAll_commitUnit hs hroom
    obtain ⟨hf', -, -, hcur'⟩ := happ.between.complete
    exact ⟨t, hex, by simpa using happ.len_eq hs, hcur', hf', hout, fun _ => happ.read_bs_below hs,
      fun j hj => (happ.read_bs_appended hs j).trans (unitBytes_getElem? hj)⟩
  · intro w h adv left top hn hrec htop
    have hlt : s.nrec.toNat < Config.params.recCap := Nat.lt_of_le_of_ne hinv.store.nrec_le hrec
    obtain ⟨t, hex, happ⟩ := execAll_glyph adv left hs hn hroom hlt htop
    obtain ⟨hf', -, -, hcur'⟩ := happ.between.complete
    exact ⟨t, hex, by simpa using happ.len_eq hs, hcur', hf', execAll_glyph_output adv left hs hn hroom hrec htop hex,
      fun _ => happ.read_bs_below hs, fun j hj => (happ.read_bs_appended hs j).trans (unitBytes_getElem? hj),
      _, happ.read_recs_appended hs 0, rfl, rfl, rfl⟩

/-! ### A unit decoded (R55, R109, R118) -/

/-- The lane of sample k ends within its byte (R5). -/
theorem Depth.sample_room (d : Depth) (k : Nat) : k * d.bits % 8 + d.bits ≤ 8 :=
  d.lane_room ((Nat.dvd_mod_iff d.bits_dvd).mpr (Nat.dvd_mul_left _ _)) (Nat.mod_lt _ (by decide))

/-- The byte with sample k lies in the unit. -/
theorem Depth.sample_byte_lt (d : Depth) {k n : Nat} (hk : k < n) : k * d.bits / 8 < packedLength d.bits n := by
  have hle : (k + 1) * d.bits ≤ n * d.bits := Nat.mul_le_mul_right _ hk
  have hpos := d.bits_pos
  rw [Nat.add_mul] at hle
  unfold packedLength
  omega

/-- The lane of sample k of a unit's bytes holds the sample, masked (R55). -/
theorem sampleAt_unitByte (d : Depth) (xs : List (BitVec 8)) (k : Nat) :
    sampleAt d (unitByte d xs (k * d.bits / 8)) (k * d.bits % 8) = maskSample d (xs.getD k 0#8) := by
  refine BitVec.eq_of_getLsbD_eq fun b hb => ?_
  rw [sampleAt, maskSample, BitVec.getLsbD_and, BitVec.getLsbD_and, BitVec.getLsbD_ushiftRight, Depth.mask_getLsbD]
  by_cases hlane : b < d.bits
  · have hroom := d.sample_room k
    have hbit : 8 * (k * d.bits / 8) + (k * d.bits % 8 + b) = b + k * d.bits := by omega
    rw [unitByte_getLsbD d xs _ (by omega), hbit, Nat.add_mul_div_right _ _ d.bits_pos, Nat.add_mul_mod_self_right,
      Nat.div_eq_of_lt hlane, Nat.mod_eq_of_lt hlane, Nat.zero_add]
  · simp [hlane]

/-- The block is ready to decode the unit at an address: its bytes stand there below `LEN`. -/
structure State.HoldsUnit (d : Depth) (xs : List (BitVec 8)) (off : BitVec 32) (s : State) : Prop where
  fault_ok : s.fault = .ok
  depth_eq : s.depth = .configured d
  below_len : off.toNat + packedLength d.bits xs.length ≤ s.len.toNat
  bytes_eq : ∀ j, j < packedLength d.bits xs.length → Memory.read s.bs (off.toNat + j) = some (unitByte d xs j)

/-- The decoder at sample k of the unit at an address (R118). -/
def State.decoderAt (d : Depth) (off : BitVec 32) (k : Nat) (s : State) : State :=
  { s with
    uptr := off + BitVec.ofNat 32 (k * d.bits / 8)
    ucur := BitVec.ofNat 4 (k * d.bits % 8)
    uvalid := true }

/-- R116: the decoder just constructed. -/
theorem State.decoderAt_zero (d : Depth) (off : BitVec 32) (s : State) : s.decoderAt d off 0 = s.seekTo off := by
  simp [State.decoderAt, State.seekTo]

theorem State.decoderAt_ucur (d : Depth) (off : BitVec 32) (k : Nat) (s : State) :
    (s.decoderAt d off k).ucur.toNat = k * d.bits % 8 := by
  show (BitVec.ofNat 4 _).toNat = _
  rw [BitVec.toNat_ofNat]
  omega

/-- R118: past one sample, the decoder is at the next. -/
theorem State.nextLane_decoderAt (d : Depth) (off : BitVec 32) (k : Nat) (s : State) :
    (s.decoderAt d off k).nextLane d = s.decoderAt d off (k + 1) := by
  have hnext : (k + 1) * d.bits = k * d.bits + d.bits := by rw [Nat.add_mul, Nat.one_mul]
  have hroom := d.sample_room k
  rw [State.nextLane, State.decoderAt_ucur]
  by_cases hfull : 8 ≤ k * d.bits % 8 + d.bits
  · have hdiv : (k + 1) * d.bits / 8 = k * d.bits / 8 + 1 := by omega
    have hmod : (k + 1) * d.bits % 8 = 0 := by omega
    simp [hfull, State.decoderAt, hdiv, hmod, BitVec.ofNat_add, BitVec.add_assoc]
  · have hdiv : (k + 1) * d.bits / 8 = k * d.bits / 8 := by omega
    have hmod : (k + 1) * d.bits % 8 = k * d.bits % 8 + d.bits := by omega
    simp [hfull, State.decoderAt, hdiv, hmod, BitVec.ofNat_add]

section
variable {d : Depth} {xs : List (BitVec 8)} {off : BitVec 32} {s : State}

/-- No address in the unit wraps. -/
theorem State.HoldsUnit.decoderAt_uptr (h : s.HoldsUnit d xs off) {k : Nat} (hk : k < xs.length) :
    (s.decoderAt d off k).uptr.toNat = off.toNat + k * d.bits / 8 := by
  have hbyte := d.sample_byte_lt hk
  have hlen := h.below_len
  have hlt := s.len.isLt
  show (off + BitVec.ofNat 32 _).toNat = _
  rw [BitVec.toNat_add, BitVec.toNat_ofNat]
  omega

/-- The response of `DEC` that returns a sample of a unit (R118). -/
def sampleResponse (d : Depth) (x : BitVec 8) : Response := ⟨.ok, zext128 (maskSample d x)⟩

/-- `DEC` at sample k returns it and moves to the next. -/
theorem State.HoldsUnit.exec_dec (h : s.HoldsUnit d xs off) {k : Nat} (hk : k < xs.length) (rs : List Response) :
    exec .dec ((s.withResponses rs).decoderAt d off k)
      = .next ((s.withResponses (rs ++ [sampleResponse d xs[k]])).decoderAt d off (k + 1)) := by
  have hbyte := d.sample_byte_lt hk
  have huptr : ((s.withResponses rs).decoderAt d off k).uptr.toNat = off.toNat + k * d.bits / 8 := h.decoderAt_uptr hk
  have hlt : off.toNat + k * d.bits / 8 < s.len.toNat := by
    have := h.below_len
    omega
  rw [Machine.exec_dec (s := (s.withResponses rs).decoderAt d off k) h.fault_ok h.depth_eq rfl (huptr ▸ hlt)
      (huptr ▸ h.bytes_eq _ hbyte), State.nextLane_decoderAt, State.decoderAt_ucur, sampleAt_unitByte,
    List.getD_eq_getElem _ _ hk, sampleResponse, ← State.withResponses_answer]
  rfl

/-- The first k samples of the unit decoded. -/
theorem State.HoldsUnit.execAll_dec (h : s.HoldsUnit d xs off) {k : Nat} (hk : k ≤ xs.length) (rs : List Response) :
    execAll (List.replicate k .dec) ((s.withResponses rs).decoderAt d off 0)
      = .next ((s.withResponses (rs ++ (xs.take k).map (sampleResponse d))).decoderAt d off k) := by
  induction k with
  | zero => simp
  | succ k ih =>
    rw [List.replicate_succ', execAll_append _ _ (ih (Nat.le_of_succ_le hk)), execAll_cons [] (h.exec_dec hk _),
      execAll_nil, List.take_succ_eq_append_getElem hk, List.map_append, List.append_assoc]
    rfl

/-- R109: `SEEK` and as many `DEC` answer the masked samples in order. -/
theorem State.HoldsUnit.execAll_seek_dec (h : s.HoldsUnit d xs off) :
    ∃ v, execAll (.seek off :: List.replicate xs.length .dec) s = .next v
      ∧ v.output = s.output ++ ⟨.ok, 0#128⟩ :: xs.map (sampleResponse d) := by
  have hseek : exec (.seek off) s = .next ((s.withResponses [⟨.ok, 0#128⟩]).decoderAt d off 0) := by
    rw [exec_seek off h.fault_ok h.depth_eq, State.decoderAt_zero]
    rfl
  refine ⟨_, (execAll_cons _ hseek).trans (h.execAll_dec (Nat.le_refl _) _), ?_⟩
  rw [List.take_length]
  rfl

end

/-- A state that still holds the bytes that the unit's flush left decodes the unit. -/
theorem State.holdsUnit_of_read_eq {d : Depth} {xs : List (BitVec 8)} {off : BitVec 32} {t u : State}
    (hf : u.fault = .ok) (hd : u.depth = .configured d)
    (hlen : t.len.toNat = off.toNat + packedLength d.bits xs.length) (hle : t.len.toNat ≤ u.len.toNat)
    (hbytes : ∀ j, j < packedLength d.bits xs.length → Memory.read t.bs (off.toNat + j) = some (unitByte d xs j))
    (hkept : ∀ a, off.toNat ≤ a → a < t.len.toNat → Memory.read u.bs a = Memory.read t.bs a) :
    u.HoldsUnit d xs off where
  fault_ok := hf
  depth_eq := hd
  below_len := hlen ▸ hle
  bytes_eq j hj := (hkept _ (Nat.le_add_right _ _) (by omega)).trans (hbytes j hj)

/-- Settles O47: by R108 the flush leaves the unit's bytes from the old `LEN` on, and a state that holds them
decodes them. -/
theorem roundTripLaw : Obligations.RoundTripLaw := by
  intro s u d xs hinv hf hd hcur hg hroom huf hud
  obtain ⟨⟨t₁, hex₁, hlen₁, -, -, -, -, hbytes₁⟩, hglyph⟩ := unitOfEncodingLayout s d xs hinv hf hd hcur hg hroom
  constructor
  · intro t hex hle hkept
    cases hex₁.symm.trans hex
    exact (State.holdsUnit_of_read_eq huf hud hlen₁ hle hbytes₁ hkept).execAll_seek_dec
  · intro t w h adv left top hn hrec htop hex hle hkept
    obtain ⟨t₂, hex₂, hlen₂, -, -, -, -, hbytes₂, -⟩ := hglyph w h adv left top hn hrec htop
    cases hex₂.symm.trans hex
    exact (State.holdsUnit_of_read_eq huf hud hlen₂ hle hbytes₂ hkept).execAll_seek_dec

end Sys2Proof.Machine
end

section
/-! The unpacker: `SEEK` (R116), `DEC` (R118) and the samples of one byte (R120) of 42_unpacker.md. -/

namespace Sys2Proof.Machine

/-! ### `SEEK` -/

/-- Settles O24: past the common checks, `SEEK` has no check of its own. -/
theorem seekConstructsTheDecoder : Obligations.SeekConstructsTheDecoder :=
  ⟨fun _ _ => decode_eq_ok_iff, fun _ => commonChecks nofun nofun, fun _ _ off hf hd => exec_seek off hf hd⟩

/-! ### `DEC` -/

theorem exec_dec_noDecoder {s : State} {d : Depth} (hf : s.fault = .ok) (hd : s.depth = .configured d)
    (hv : s.uvalid = false) : exec .dec s = raise .seq s := by
  show execDec s = _
  rw [execDec, whenReady_ready hf hd, if_pos hv]

theorem exec_dec_outOfBounds {s : State} {d : Depth} (hf : s.fault = .ok) (hd : s.depth = .configured d)
    (hv : s.uvalid = true) (hle : s.len.toNat ≤ s.uptr.toNat) : exec .dec s = raise .bounds s := by
  show execDec s = _
  rw [execDec, whenReady_ready hf hd, if_neg (by simp [hv]), if_pos hle]

/-- A sample that is not the last of its byte. -/
theorem State.nextLane_eq_lane {s : State} {d : Depth} (h : s.ucur.toNat + d.bits < 8) :
    s.nextLane d = { s with ucur := BitVec.ofNat 4 (s.ucur.toNat + d.bits) } := by
  rw [State.nextLane, if_neg (Nat.not_le.mpr h), BitVec.ofNat_add, BitVec.ofNat_toNat, BitVec.setWidth_eq]

/-- The last sample of a byte. -/
theorem State.nextLane_eq_byte {s : State} {d : Depth} (h : 8 ≤ s.ucur.toNat + d.bits) :
    s.nextLane d = { s with uptr := s.uptr + 1#32, ucur := 0#4 } := by
  rw [State.nextLane, if_pos h]

/-- Settles O25: the checks in R186's order, then the sample in the lane, and the cursor past it. -/
theorem decReturnsTheNextSample : Obligations.DecReturnsTheNextSample := by
  refine ⟨fun w => decode_eq_ok_iff, commonChecks nofun nofun, fun s d hf hd =>
    ⟨fun hv => ?_, fun hv hle => ?_, fun b hv hlt hb => ⟨fun hlane => ?_, fun hbyte => ?_⟩⟩⟩
  · rw [exec_dec_noDecoder hf hd hv, raise_of_ok _ hf]
  · rw [exec_dec_outOfBounds hf hd hv hle, raise_of_ok _ hf]
  · rw [exec_dec hf hd hv hlt hb, State.nextLane_eq_lane hlane]
    rfl
  · rw [exec_dec hf hd hv hlt hb, State.nextLane_eq_byte hbyte]
    rfl

/-! ### The samples of one byte (R120) -/

/-- The samples of the lanes of a unit's first byte, 0 in a lane without one: exactly as many as the byte has lanes. -/
def laneSamples (d : Depth) (xs : List (BitVec 8)) : List (BitVec 8) :=
  (List.range (8 / d.bits)).map fun k => xs.getD k 0#8

@[simp] theorem laneSamples_length (d : Depth) (xs : List (BitVec 8)) : (laneSamples d xs).length = 8 / d.bits := by
  simp [laneSamples]

theorem laneSamples_getD (d : Depth) (xs : List (BitVec 8)) {k : Nat} (hk : k < 8 / d.bits) :
    (laneSamples d xs).getD k 0#8 = xs.getD k 0#8 := by
  rw [List.getD_eq_getElem _ _ (by simpa using hk)]
  simp [laneSamples]

/-- The first byte of a unit depends on the samples of its own lanes only. -/
theorem unitByte_laneSamples (d : Depth) (xs : List (BitVec 8)) : unitByte d (laneSamples d xs) 0 = unitByte d xs 0 :=
  List.foldl_ext _ _ _ fun b k hk => by
    rw [Nat.zero_mul, Nat.zero_add, laneSamples_getD d xs (List.mem_range.mp hk)]

/-- The depth divides the byte into lanes (R5). -/
theorem Depth.lanes_mul_bits (d : Depth) : 8 / d.bits * d.bits = 8 := Nat.div_mul_cancel d.bits_dvd

theorem packedLength_laneSamples (d : Depth) (xs : List (BitVec 8)) :
    packedLength d.bits (laneSamples d xs).length = 1 := by
  rw [laneSamples_length, packedLength, d.lanes_mul_bits]

/-- One readable byte below `LEN` is a unit of as many samples as it has lanes. -/
theorem State.holdsUnit_laneSamples {s : State} {d : Depth} {xs : List (BitVec 8)} {off : BitVec 32}
    (hf : s.fault = .ok) (hd : s.depth = .configured d) (hlt : off.toNat < s.len.toNat)
    (hb : Memory.read s.bs off.toNat = some (unitByte d xs 0)) : s.HoldsUnit d (laneSamples d xs) off where
  fault_ok := hf
  depth_eq := hd
  below_len := by rwa [packedLength_laneSamples]
  bytes_eq j hj := by
    rw [packedLength_laneSamples] at hj
    obtain rfl : j = 0 := Nat.lt_one_iff.mp hj
    rw [unitByte_laneSamples, Nat.add_zero, hb]

/-- Past the last lane of the first byte, the decoder is at the next byte. -/
theorem State.decoderAt_lanes (d : Depth) (off : BitVec 32) (s : State) :
    s.decoderAt d off (8 / d.bits) = s.seekTo (off + 1#32) := by
  rw [State.decoderAt, d.lanes_mul_bits]
  rfl

/-- A decoder at the start of a byte is as `SEEK` to that byte leaves it. -/
theorem State.seekTo_self {s : State} (hv : s.uvalid = true) (hcur : s.ucur = 0#4) : s.seekTo s.uptr = s := by
  rw [State.seekTo, ← hv, ← hcur]

/-- Settles O26: the byte at `UPTR` is a unit of its own, and `DEC` returns the samples of a unit in order. -/
theorem decUndoesEncOnOneByte : Obligations.DecUndoesEncOnOneByte := by
  intro s d xs hf hd hv hcur hlt hb
  have hunit : s.HoldsUnit d (laneSamples d xs) s.uptr := State.holdsUnit_laneSamples hf hd hlt hb
  have hdec := hunit.execAll_dec (Nat.le_refl _) []
  have hstart : (s.withResponses []).decoderAt d s.uptr 0 = s := by
    rw [State.withResponses, List.append_nil, State.decoderAt_zero, State.seekTo_self hv hcur]
  rw [hstart, List.take_length, laneSamples_length, State.decoderAt_lanes, laneSamples, List.map_map] at hdec
  rw [hdec, State.seekTo, ← hv, ← hcur]
  rfl

end Sys2Proof.Machine
end

section
/-! The glyph record formatter: `GBEGIN` (R131), `GEND` (R134 to R138), `RDREC` (R141) and the offset law (R140) of
43_glyph_record.md. -/

namespace Sys2Proof.Machine

/-! ### `GBEGIN` (R131) -/

section
variable {s : State} {d : Depth} (w h : BitVec 16)

theorem exec_gbegin_inGlyph (hf : s.fault = .ok) (hd : s.depth = .configured d) (hg : s.gopen = true) :
    exec (.gbegin w h) s = raise .seq s := by
  show gbeginAt Config.params w h s = _
  rw [gbeginAt, whenReady_ready hf hd, if_pos hg]

theorem exec_gbegin_pending (hf : s.fault = .ok) (hd : s.depth = .configured d) (hg : s.gopen = false)
    (hcur : s.bytePending) : exec (.gbegin w h) s = raise .seq s := by
  show gbeginAt Config.params w h s = _
  rw [gbeginAt, whenReady_ready hf hd, if_neg (by simp [hg]), if_pos hcur]

theorem exec_gbegin_recFull (hf : s.fault = .ok) (hd : s.depth = .configured d) (hg : s.gopen = false)
    (hcur : s.cur = 0#4) (hcap : s.recFull Config.params) : exec (.gbegin w h) s = raise .cap s := by
  show gbeginAt Config.params w h s = _
  rw [gbeginAt, whenReady_ready hf hd, if_neg (by simp [hg]), if_neg (not_not.mpr hcur), if_pos hcap]

end

/-- Settles O27: the checks in R186's order, then `openGlyph`. -/
theorem gbeginOpensAGlyph : Obligations.GbeginOpensAGlyph := by
  refine ⟨fun v w h => decode_eq_ok_iff, fun w h => commonChecks nofun nofun, fun s d w h hf hd =>
    ⟨fun hg => ?_, fun hg hcur => ?_, fun hg hcur hcap => ?_, fun hg hcur hcap => ?_⟩⟩
  · rw [exec_gbegin_inGlyph w h hf hd hg, raise_of_ok _ hf]
  · rw [exec_gbegin_pending w h hf hd hg hcur, raise_of_ok _ hf]
  · rw [exec_gbegin_recFull w h hf hd hg hcur hcap, raise_of_ok _ hf]
  · rw [exec_gbegin w h hf hd hg hcur hcap]
    rfl

/-! ### `GEND` (R134 to R138) -/

section
variable {s : State} {d : Depth} (adv left : BitVec 16)

theorem exec_gend_noGlyph (top : BitVec 16) (hf : s.fault = .ok) (hd : s.depth = .configured d)
    (hg : s.gopen = false) : exec (.gend adv left top) s = raise .seq s := by
  show gendAt Config.params adv left top s = _
  rw [gendAt, whenReady_ready hf hd, if_pos hg]

theorem exec_gend_count (top : BitVec 16) (hf : s.fault = .ok) (hd : s.depth = .configured d)
    (hg : s.gopen = true) (hcnt : s.gCnt.toNat ≠ s.glyphSize) : exec (.gend adv left top) s = raise .count s := by
  show gendAt Config.params adv left top s = _
  rw [gendAt, whenReady_ready hf hd, if_neg (by simp [hg]), if_pos hcnt]

theorem exec_gend_range {top : BitVec 16} (hf : s.fault = .ok) (hd : s.depth = .configured d)
    (hg : s.gopen = true) (hcnt : s.gCnt.toNat = s.glyphSize) (htop : 32767 < yOffsetOf top) :
    exec (.gend adv left top) s = raise .range s := by
  show gendAt Config.params adv left top s = _
  rw [gendAt, whenReady_ready hf hd, if_neg (by simp [hg]), if_neg (not_not.mpr hcnt), if_pos htop]

theorem exec_gend_bsFull {top : BitVec 16} (hf : s.fault = .ok) (hd : s.depth = .configured d)
    (hg : s.gopen = true) (hcnt : s.gCnt.toNat = s.glyphSize) (htop : yOffsetOf top ≤ 32767)
    (hcap : s.bytePending ∧ s.bsFull Config.params) : exec (.gend adv left top) s = raise .cap s := by
  show gendAt Config.params adv left top s = _
  rw [gendAt, whenReady_ready hf hd, if_neg (by simp [hg]), if_neg (not_not.mpr hcnt), if_neg (Int.not_lt.mpr htop),
    if_pos hcap]

end

/-- Settles O28: the checks in R186's order, then the record, after a flush with or without a byte pending. -/
theorem gendAppendsTheRecord : Obligations.GendAppendsTheRecord := by
  refine ⟨fun w adv left top => decode_eq_ok_iff, fun adv left top => commonChecks nofun nofun,
    fun s d adv left top hf hd => ⟨fun hg => ?_, fun hg hcnt => ?_, fun hg hcnt htop => ?_,
      fun hg hcnt htop hcur hlen => ?_, fun hg hcnt htop hcur => ?_, fun hg hcnt htop hcur hlen => ?_⟩⟩
  · rw [exec_gend_noGlyph adv left top hf hd hg, raise_of_ok _ hf]
  · rw [exec_gend_count adv left top hf hd hg hcnt, raise_of_ok _ hf]
  · rw [exec_gend_range adv left hf hd hg hcnt htop, raise_of_ok _ hf]
  · rw [exec_gend_bsFull adv left hf hd hg hcnt htop ⟨hcur, hlen⟩, raise_of_ok _ hf]
  · rw [exec_gend adv left top hf hd hg hcnt htop fun h => h.1 hcur, State.flush_of_empty hcur]
    rfl
  · rw [exec_gend adv left top hf hd hg hcnt htop fun h => hlen h.2, State.flush_of_pending hcur]
    rfl

/-- R136: where it fits, the 16 bits of `yOffset` read as signed are `1 - top`. -/
theorem State.glyphRecord_yOffset (s : State) (adv left : BitVec 16) {top : BitVec 16} (htop : yOffsetOf top ≤ 32767) :
    (s.glyphRecord adv left top).yOffset.toInt = 1 - top.toInt := by
  have hlt : top.toInt < 32768 := BitVec.toInt_lt
  unfold yOffsetOf at htop
  exact metricField_toInt (v := 1 - top.toInt) (by omega)

/-- Settles O29: of the 16-bit values of `top` only the two put `1 - top` above 32767, and none below -32766. -/
theorem yOffsetIsOneMinusTop : Obligations.YOffsetIsOneMinusTop := by
  intro s d adv left top hf hd hg hcnt hcap
  have hge : -32768 ≤ top.toInt := BitVec.le_toInt top
  have hlt : top.toInt < 32768 := BitVec.toInt_lt
  constructor
  · intro h7 h8
    have htop : yOffsetOf top ≤ 32767 := by unfold yOffsetOf; omega
    have hy := s.glyphRecord_yOffset adv left htop
    exact ⟨_, s.glyphRecord adv left top, exec_gend adv left top hf hd hg hcnt htop hcap, by simp, hy, by omega⟩
  · intro h
    have htop : 32767 < yOffsetOf top := by unfold yOffsetOf; omega
    rw [exec_gend_range adv left hf hd hg hcnt htop, raise_of_ok _ hf]

/-! ### `RDREC` (R141) -/

theorem exec_rdrec_outOfBounds {s : State} {d : Depth} {idx : BitVec 16} (hf : s.fault = .ok)
    (hd : s.depth = .configured d) (hle : s.nrec.toNat ≤ idx.toNat) : exec (.rdrec idx) s = raise .bounds s := by
  show execRdrec idx s = _
  rw [execRdrec, whenReady_ready hf hd, if_pos hle]

/-- The bits above a record's 112 are zero (R141). -/
theorem extract_zext128_above (v : BitVec 112) : (zext128 v).extractLsb' 112 16 = 0#16 := by
  ext i hi
  simp [zext128]

/-- Settles O30: the fields are those that the host takes from the data. -/
theorem rdrecReturnsTheRecord : Obligations.RdrecReturnsTheRecord := by
  refine ⟨fun w idx => decode_eq_ok_iff, fun idx => commonChecks nofun nofun, fun s d idx hf hd =>
    ⟨fun hle => ?_, fun r hlt hr => ⟨zext128 r.pack, exec_rdrec hf hd hlt hr, ?_⟩⟩⟩
  · rw [exec_rdrec_outOfBounds hf hd hle, raise_of_ok _ hf]
  · have hread := recordOfData_pack r
    exact ⟨congrArg Record.offset hread, congrArg Record.width hread, congrArg Record.height hread,
      congrArg Record.xAdvance hread, congrArg Record.xOffset hread, congrArg Record.yOffset hread,
      extract_zext128_above _⟩

/-! ### The offset law (R140) -/

/-- The law speaks of the records, `DEPTH` and the open glyph's offset, and of the packer only with no glyph open. -/
theorem State.OffsetLaw.congr {s u : State} (h : s.OffsetLaw) (hd : u.depth = s.depth) (hrecs : u.recs = s.recs)
    (hg : u.gopen = s.gopen) (hoff : u.gOff = s.gOff)
    (hpack : s.gopen = false → u.len = s.len ∧ u.cur = s.cur) : u.OffsetLaw where
  offset_eq := by rw [hd, hrecs]; exact h.offset_eq
  glyph_eq := by rw [hd, hrecs, hg, hoff]; exact h.glyph_eq
  len_eq := by
    rw [hd, hrecs, hg]
    intro hclosed
    obtain ⟨hlen, hcur⟩ := hpack hclosed
    rw [hlen, hcur]
    exact h.len_eq hclosed

theorem State.OffsetLaw.outlivesFaults : OutlivesFaults State.OffsetLaw := fun _ _ _ _ _ h =>
  h.congr rfl rfl rfl rfl fun _ => ⟨rfl, rfl⟩

/-- A run without records has the law. -/
theorem State.startRun_offsetLaw (d : Depth) (s : State) : (s.startRun d).OffsetLaw := by constructor <;> simp

/-- R131: the glyph's offset is `LEN`, which is the packed length of all the records. -/
theorem State.OffsetLaw.openGlyph {s : State} (h : s.OffsetLaw) (hg : s.gopen = false) (w k : BitVec 16) :
    (s.openGlyph w k).OffsetLaw where
  offset_eq := h.offset_eq
  glyph_eq _ := (h.len_eq hg).1
  len_eq := by simp

/-- R134: the glyph's record has the offset captured when it was opened, and with its packed length added that is
`LEN` again. -/
theorem State.OffsetLaw.closeGlyph {p : Params} {s : State} (h : s.OffsetLaw) (hs : s.StoreInv p)
    (hg : s.gopen = true) (hcnt : s.gCnt.toNat = s.glyphSize) (hcap : ¬ (s.bytePending ∧ s.bsFull p))
    (adv left top : BitVec 16) : (s.flush.appendRecord (s.glyphRecord adv left top)).OffsetLaw := by
  have hrecs : (s.flush.appendRecord (s.glyphRecord adv left top)).recs
      = s.recs ++ [(s.nrec.toNat, s.glyphRecord adv left top)] := by
    simpa using Memory.write_append _ hs.rec_cells
  have hoff := h.glyph_eq hg
  constructor <;> simp only [hrecs, State.appendRecord_depth, State.flush_depth]
  case offset_eq =>
    intro i k r hr
    obtain ⟨hlt, -⟩ := List.getElem?_eq_some_iff.mp hr
    have hle : i ≤ s.recs.length := by simpa [Nat.lt_succ_iff] using hlt
    obtain hi | rfl := hle.lt_or_eq
    · rw [List.getElem?_append_left hi] at hr
      rw [List.take_append_of_le_length hle]
      exact h.offset_eq i k r hr
    · obtain ⟨-, rfl⟩ : s.nrec.toNat = k ∧ s.glyphRecord adv left top = r := by simpa using hr
      rw [List.take_left]
      exact hoff
  case glyph_eq => simp
  case len_eq =>
    refine fun _ => ⟨?_, by simp⟩
    rw [State.appendRecord_len, hs.flush_end hg hcnt hcap, hoff]
    simp [Record.packedLength, State.glyphRecord]

/-- The law after every command, if samples are packed only inside a glyph. -/
theorem Effect.offsetLaw {p : Params} {i : Instr} {s u : State} (hs : s.StoreInv p) (h : s.OffsetLaw)
    (henc : (∃ x, i = .enc x) → s.gopen = true) (he : Effect p s i u) : u.OffsetLaw := by
  cases he with
  | cfg hd => exact State.startRun_offsetLaw _ s
  | enc hd hcnt hcap => exact h.congr (by simp) (by simp) (by simp) (by simp) (by simp [henc ⟨_, rfl⟩])
  | commit hd hg hcap => rwa [State.flush_of_empty (h.len_eq hg).2]
  | seek hd => exact h.congr rfl rfl rfl rfl fun _ => ⟨rfl, rfl⟩
  | dec hd hv hlt => exact h.congr (by simp) (by simp) (by simp) (by simp) (by simp)
  | gbegin hd hg hcur hcap => exact h.openGlyph hg _ _
  | gend hd hg hcnt htop hcap => exact h.closeGlyph hs hg hcnt hcap _ _ _
  | rdrec | rdbs | rdstat => exact h

/-- Settles O48: a fault touches nothing the law speaks of, every effect keeps it, and an empty run has it. -/
theorem offsetLawIsKept : Obligations.OffsetLawIsKept := by
  refine ⟨fun i s t hinv hlaw henc hex => ?_, fun d e s t hd hex => ?_⟩
  · rcases execAt_next (exec_eq_execAt i s ▸ hex) with hr | ⟨u, v, he, rfl⟩
    · exact State.OffsetLaw.outlivesFaults.of_raised hlaw hr
    · exact State.OffsetLaw.outlivesFaults.of_answer (he.offsetLaw hinv.store hlaw henc) _ _
  · rw [Depth.ofField_eq_some.mp hd, exec_cfg] at hex
    cases hex
    exact State.OffsetLaw.outlivesFaults.of_answer (State.startRun_offsetLaw e s) _ _

/-! ### The glyphs of a run (R143, R172, R173) -/

/-- Settles O50, by the glyphs before the failed code point. -/
theorem skippedGlyphGetsNoCommand : Obligations.SkippedGlyphGetsNoCommand := by
  intro d before after
  induction before with
  | nil => rfl
  | cons g before ih =>
    cases g with
    | none => exact ih
    | some g => simp only [List.cons_append, glyphsCommands, ih]

/-- As many records as code points that the rasteriser did not fail on (R139). -/
theorem RunInputs.length_glyphs_eq_recorded (n : RunInputs) (e : Rasteriser) (d : Depth) :
    ((n.glyphs e d).filterMap id).length = (n.recorded e d).length := by
  simpa using congrArg List.length (n.glyphs_recorded e d)

/-- As many bytes as the glyphs take packed (R108). -/
theorem length_flatMap_glyphBytes {d : Depth} {gs : List (Option (Bitmap × Metrics))} {is : List Instr}
    (his : glyphsCommands d gs = some is) : ((gs.filterMap id).flatMap (glyphBytes d)).length
      = ((gs.filterMap id).map (glyphLength d)).sum := by
  rw [List.length_flatMap]
  refine congrArg List.sum (List.map_congr_left fun g hg => ?_)
  obtain ⟨js, hjs⟩ := glyphCommands_of_mem his hg
  exact glyphBytes_length hjs

/-- Settles O53: the run leaves the bytes and records of its glyphs (`execAll_runCommands`), which are counted. -/
theorem conversionRunBuildsTheAsset : Obligations.ConversionRunBuildsTheAsset := by
  intro s n e d is hd hconv hroom hrec htop
  have hrun := RunInputs.runCommands_of_conversion hd hconv
  obtain ⟨js, hjs, -⟩ := Option.map_eq_some_iff.mp hrun
  have hcount := n.length_glyphs_eq_recorded e d
  obtain ⟨t, hex, hbetween, hbytes, hrecords, rs, hout, hok⟩ := execAll_runCommands s hrun hroom (hcount ▸ hrec) htop
  have hnrec : t.records.length = (n.recorded e d).length := by rw [hrecords, glyphRecords_length, hcount]
  have hlen : t.bytes.length = (((n.glyphs e d).filterMap id).map (glyphLength d)).sum := by
    rw [hbytes, length_flatMap_glyphBytes hjs]
  refine ⟨t, _, hex, hbetween.complete, ?_, hbetween.records_length ▸ hnrec, hbetween.asset_eq _, rfl, hnrec, hlen,
    rfl, rfl, rfl⟩
  rwa [hout, List.drop_left]

end Sys2Proof.Machine
end

section
/-! `RDBS` (R150 of 44_readback.md). -/

namespace Sys2Proof.Machine

theorem exec_rdbs_outOfBounds {s : State} {d : Depth} {addr : BitVec 32} (hf : s.fault = .ok)
    (hd : s.depth = .configured d) (hle : s.len.toNat ≤ addr.toNat) : exec (.rdbs addr) s = raise .bounds s := by
  show execRdbs addr s = _
  rw [execRdbs, whenReady_ready hf hd, if_pos hle]

/-- Settles O31: out of bounds at or beyond `LEN`; below it the answer is the byte at the address. -/
theorem rdbsReturnsTheByte : Obligations.RdbsReturnsTheByte := by
  refine ⟨fun w addr => decode_eq_ok_iff, fun addr => commonChecks nofun nofun, fun s d addr hf hd =>
    ⟨fun hle => ?_, fun b hlt hb => exec_rdbs hf hd hlt hb⟩⟩
  rw [exec_rdbs_outOfBounds hf hd hle, raise_of_ok _ hf]

end Sys2Proof.Machine
end

section
/-! The software around the block (45_boundary_functions.md): the quantiser and the expander (R161, R166, R167), and a
glyph of the host's loop (R164, R190). -/

namespace Sys2Proof.Machine

/-! ### The quantiser and the expander -/

/-- R166: the scale of a depth takes its largest sample to 255. -/
theorem expandScale_mul (d : Depth) : expandScale d * (2 ^ d.bits - 1) = 255 := by cases d <;> rfl

theorem quant_toNat (d : Depth) (p : BitVec 8) : (quant d p).toNat = p.toNat / 2 ^ (8 - d.bits) := by
  rw [quant, BitVec.toNat_ushiftRight, Nat.shiftRight_eq_div_pow]

theorem quant_toNat_lt (d : Depth) (p : BitVec 8) : (quant d p).toNat < 2 ^ d.bits := by
  rw [quant_toNat]
  refine Nat.div_lt_of_lt_mul ?_
  rw [← pow_add, Nat.sub_add_cancel d.bits_le]
  exact p.isLt

/-- A pixel is k scales only for k < 2^d, and the scale exceeds the quantiser's step 2^(8-d) by so little that k scales
stay below step k + 1. -/
theorem quant_toNat_of_eq_mul_scale {d : Depth} {p : BitVec 8} {k : Nat} (h : p.toNat = expandScale d * k) :
    (quant d p).toNat = k := by
  have hp := p.isLt
  rw [quant_toNat]
  cases d <;> simp only [expandScale, Depth.bits] at h ⊢ <;> omega

/-- R167: the pixels that survive quantising and expanding. -/
theorem expandSample_quant_eq_iff (d : Depth) (p : BitVec 8) :
    expandSample d (quant d p).toNat = p.toNat ↔ p.toNat % expandScale d = 0 := by
  constructor
  · intro h
    rw [← h, expandSample, Nat.mul_mod_left]
  · intro h
    obtain ⟨k, hk⟩ := Nat.dvd_of_mod_eq_zero h
    rw [expandSample, quant_toNat_of_eq_mul_scale hk, hk, Nat.mul_comm]

/-- Settles O51: the shift divides by the quantiser's step, which takes k scales to k. -/
theorem quantiserAndExpander : Obligations.QuantiserAndExpander :=
  ⟨expandScale_mul, fun d p _ => ⟨quant_toNat_lt d p, expandSample_quant_eq_iff d p⟩⟩

/-! ### A glyph of the host's loop -/

/-- Settles O49: the glyph appends one record, and every response to it is `OK` (`execAll_glyphCommands`). -/
theorem hostLoopGlyphNeverFaults : Obligations.HostLoopGlyphNeverFaults := by
  intro s d m q is hinv hcomplete hd his hroom hrec htop
  have hs : s.BetweenGlyphs d := ⟨hinv, hcomplete, hd⟩
  have hlt : s.nrec.toNat < Config.params.recCap := Nat.lt_of_le_of_ne hinv.store.nrec_le hrec
  obtain ⟨t, hex, happ⟩ := execAll_glyphCommands (g := (m, q)) hs his hroom hlt htop
  obtain ⟨rs, hout, hok⟩ := happ.responses_ok
  refine ⟨t, hex, happ.between.complete, happ.nrec_eq hs, ?_⟩
  rwa [hout, List.drop_left]

end Sys2Proof.Machine
end

section
/-! The exceptions of 60_exceptions.md: the lock (R182), the block not configured (R185) and what a fault records
(R181). -/

namespace Sys2Proof.Machine

/-! ### The common checks -/

/-- Settles O12: a command meets the common checks, and an ill-formed word leaves the fault that is there. -/
theorem lockedBlockRefusesCommands : Obligations.LockedBlockRefusesCommands := by
  refine ⟨fun i s hf hcfg hstat => (commonChecks hcfg hstat s).1 hf, fun s w rest hf hin hw => ?_⟩
  rw [illegalWordRaisesIllegal.1 s w rest hin hw, if_neg hf]

/-- Settles O13, by the common checks. -/
theorem unconfiguredBlockRefusesCommands : Obligations.UnconfiguredBlockRefusesCommands :=
  fun _ s hf hd hcfg hstat => (commonChecks hcfg hstat s).2 hf hd

/-! ### What a fault records -/

/-- A command that ends well answers `OK` (R9), so a word answered with another status took a fault. -/
theorem raised_of_serveWord {w : BitVec 64} {s t : State} {r : Response} (h : serveWord exec w s = .next t)
    (hout : t.output = s.output ++ [r]) (hr : r.status ≠ .ok) : Raised s t := by
  rcases serveWord_next h with hraised | ⟨i, -, hex⟩
  · exact hraised
  · rcases execAt_next (exec_eq_execAt i s ▸ hex) with hraised | ⟨u, v, hu, rfl⟩
    · exact hraised
    · rw [State.answer_output, hu.interface_eq.2, List.append_cancel_left_eq, List.singleton_inj] at hout
      exact absurd (hout ▸ rfl) hr

/-- The state after a fault, in terms of the response it gave (R76, R181). -/
theorem Raised.eq_of_output {s t : State} {r : Response} (h : Raised s t) (hout : t.output = s.output ++ [r]) :
    t = { s with fault := if s.fault = .ok then r.status else s.fault, output := s.output ++ [r] }
      ∧ (r.status = .locked → s.isLocked) := by
  obtain ⟨c, -, hlocked, rfl⟩ := h
  obtain rfl : (⟨c, 0#128⟩ : Response) = r := by simpa using hout
  exact ⟨State.recordFault_answer_eq c s, hlocked⟩

/-- R181: `FAULT` never becomes `F_LOCKED`, in any step. -/
theorem step_fault_ne_locked {s t : State} (hs : s.fault ≠ .locked) (h : step s = .next t) : t.fault ≠ .locked := by
  refine step_keeps (P := fun s => s.fault ≠ .locked) (fun _ _ _ _ hc hs hl => hs (hc hl)) (by simp [State.reset])
    (fun i s u hs he => ?_) hs h
  rcases he.fault_eq with hf | hf
  · simp [hf]
  · rwa [hf]

/-- Settles O14: the word is off the list before it is served, and serving it with a fault status is taking a fault. -/
theorem faultIsRecordedAndChangesNothingElse : Obligations.FaultIsRecordedAndChangesNothingElse := by
  intro s t w rest hin h
  refine ⟨fun r hout hr => ?_, fun hs => step_fault_ne_locked hs h⟩
  rw [step_command hin, State.takeAction_of_input hin] at h
  exact (raised_of_serveWord h hout hr).eq_of_output hout

end Sys2Proof.Machine
end
